-- ==== Sys2Proof/Word.lean ====
section
/-! DEFINITION. The two word types of the CSC-R block: a byte of system memory and a 32-bit register value or address
(spec/10_state.md R20, spec/20_memory.md R60, spec/00_scope.md R6: ADDR_BITS is fixed at 32, the value shown there). -/

namespace Sys2Proof

/-- A `u8`: one byte of system memory, one sample, or one lane of a pixel (R7, R60). -/
abbrev Byte := BitVec 8

/-- A `u32`: a register value (R20) or a physical byte address (R60, R79). -/
abbrev Word := BitVec 32

end Sys2Proof
end

