-- ==== Sys2Proof/Machine/Bits.lean ====
section
/-! DEFINITION. Bit fields, sign extension and byte order (spec/00_scope.md R8-R10, spec/20_memory.md R63). -/

namespace Sys2Proof.Machine

/-- `sext_32`: a register value read as s32 (R7, R8). -/
def sext32 (v : Word) : Int := v.toInt

/-- `zext_32`: a register value read as u32 (R8). -/
def zext32 (v : Word) : Nat := v.toNat

/-- A value taken modulo 2^ADDR_BITS, as every address the block forms is (R62). -/
def toAddress (v : Int) : Word := BitVec.ofInt 32 v

/-- Byte `i` of a little-endian value: bits 8i+7 down to 8i (R63). -/
def byteOf (v : Word) (i : Nat) : Byte := v.extractLsb' (8 * i) 8

/-- The little-endian value of a list of bytes, the first at the lowest address (R10, R63). -/
def ofBytes : List Byte → Nat
  | [] => 0
  | b :: bs => b.toNat + 256 * ofBytes bs

/-- A single bit as a register value. -/
def bitAt (b : Bool) (i : Nat) : Word := if b then BitVec.ofNat 32 (2 ^ i) else 0

end Sys2Proof.Machine
end

