-- ==== Sys2Proof/Config.lean ====
section
/-! DEFINITION. What a platform fixes (spec/00_scope.md R6) and the free values.

The parameters of R6 are plain data, collected in `Platform`; a `State` carries one, no step ever changes it, and a
claim about every state is a claim about every platform (assumption 3). `N_INSTANCES` is the number of instances a
`State` holds. The two `opaque` constants are the spec's "unspecified value: a model draws each byte freely"
(spec/93_implementation_defined.md, treatment `any value`); they have no body, so nothing can be proved of their values
(assumption 1). -/

namespace Sys2Proof.Config

/-- One entry of a colour table: four signed 16-bit contributions in the lane order B, G, R, A (R40). -/
structure Lanes where
  b : BitVec 16
  g : BitVec 16
  r : BitVec 16
  a : BitVec 16
  deriving DecidableEq, Repr

/-- The three colour tables, 256 entries each (R40): a parameter of the block (R6, assumption 4 for the default). -/
structure Tables where
  ytab : Vector Lanes 256
  utab : Vector Lanes 256
  vtab : Vector Lanes 256
  deriving DecidableEq, Repr

/-- A run of `size` byte addresses of ordinary memory that begins at `base`. -/
structure Region where
  base : Nat
  size : Nat
  deriving DecidableEq, Repr

/-- `IRQ_LINE(k)`: the input of the platform's interrupt controller that an instance drives, and its priority (R6). -/
structure IrqLine where
  input    : Nat
  priority : Nat
  deriving DecidableEq, Repr

/-- The platform parameters of R6. -/
structure Platform where
  /-- `CSC_BASE`, the address of instance 0's register window. -/
  cscBase  : Word
  /-- `ID_VALUE`, what the ID register reads. -/
  idValue  : Word
  /-- `YTAB`, `UTAB`, `VTAB`. -/
  tables   : Tables
  /-- The ordinary memory of the platform; `Mapped(a)` holds inside a region and outside every register window
  (R80). Every predicate on the 2^32 addresses is that of some list of regions. -/
  memory   : List Region
  /-- `COHERENT`: whether the block and the host see one memory (R73). -/
  coherent : Bool
  /-- `IRQ_LINE(k)` of instance k, at position k of the list (R278). -/
  irqLines : List IrqLine
  deriving DecidableEq, Repr

/-- The default of `ID_VALUE`: "C", "S", "C", version 1 (R22). -/
def idValueDefault : Word := 0x43534301

/-- A free byte, for the `n`-th draw at byte address `a`: an unspecified value (R68, R72, R75, R276, R302). -/
opaque freeByte (n a : Nat) : Byte

/-- A free choice, for the `n`-th draw at byte address `a`: which of the two values a rule permits a byte to end with
(R72, R276, R302). -/
opaque freeChoice (n a : Nat) : Bool

end Sys2Proof.Config
end

