-- ==== Sys2Proof/Machine/ColorTables.lean ====
section
/-! DEFINITION. The default colour tables (spec/10_state.md R43, which is normative for the default; R41 is the formula
they came from). They are a parameter of the block; these values are the spec's own default (assumption 4). -/

namespace Sys2Proof.Machine
open Sys2Proof.Config

/-- A row of R43's table: YTAB[i].B = .G = .R, then UTAB[i].B, UTAB[i].G, VTAB[i].G and VTAB[i].R. -/
def defaultRow (y ub ug vg vr : Int) : Int × Int × Int × Int × Int := (y, ub, ug, vg, vr)

/-- Rows 0 to 15 of R43. -/
def defaultRows0 : List (Int × Int × Int × Int × Int) :=
  [ defaultRow (-1191) (-16530) 3203 6660 (-13073),
    defaultRow (-1116) (-16401) 3178 6608 (-12971),
    defaultRow (-1042) (-16272) 3153 6556 (-12869),
    defaultRow (-967) (-16143) 3128 6504 (-12767),
    defaultRow (-893) (-16014) 3103 6452 (-12665),
    defaultRow (-818) (-15885) 3078 6400 (-12563),
    defaultRow (-744) (-15756) 3053 6348 (-12461),
    defaultRow (-669) (-15626) 3028 6296 (-12358),
    defaultRow (-595) (-15497) 3003 6244 (-12256),
    defaultRow (-520) (-15368) 2978 6192 (-12154),
    defaultRow (-446) (-15239) 2953 6140 (-12052),
    defaultRow (-371) (-15110) 2928 6088 (-11950),
    defaultRow (-297) (-14981) 2903 6036 (-11848),
    defaultRow (-222) (-14851) 2878 5984 (-11746),
    defaultRow (-148) (-14722) 2853 5932 (-11643),
    defaultRow (-73) (-14593) 2828 5880 (-11541) ]

/-- Rows 16 to 31 of R43. -/
def defaultRows1 : List (Int × Int × Int × Int × Int) :=
  [ defaultRow 0 (-14464) 2803 5828 (-11439),
    defaultRow 74 (-14335) 2778 5776 (-11337),
    defaultRow 149 (-14206) 2753 5724 (-11235),
    defaultRow 223 (-14077) 2728 5671 (-11133),
    defaultRow 298 (-13947) 2703 5619 (-11031),
    defaultRow 372 (-13818) 2678 5567 (-10928),
    defaultRow 447 (-13689) 2653 5515 (-10826),
    defaultRow 521 (-13560) 2628 5463 (-10724),
    defaultRow 596 (-13431) 2602 5411 (-10622),
    defaultRow 670 (-13302) 2577 5359 (-10520),
    defaultRow 745 (-13173) 2552 5307 (-10418),
    defaultRow 819 (-13043) 2527 5255 (-10316),
    defaultRow 894 (-12914) 2502 5203 (-10213),
    defaultRow 968 (-12785) 2477 5151 (-10111),
    defaultRow 1043 (-12656) 2452 5099 (-10009),
    defaultRow 1117 (-12527) 2427 5047 (-9907) ]

/-- Rows 32 to 47 of R43. -/
def defaultRows2 : List (Int × Int × Int × Int × Int) :=
  [ defaultRow 1192 (-12398) 2402 4995 (-9805),
    defaultRow 1266 (-12268) 2377 4943 (-9703),
    defaultRow 1341 (-12139) 2352 4891 (-9601),
    defaultRow 1415 (-12010) 2327 4839 (-9498),
    defaultRow 1490 (-11881) 2302 4787 (-9396),
    defaultRow 1564 (-11752) 2277 4735 (-9294),
    defaultRow 1639 (-11623) 2252 4683 (-9192),
    defaultRow 1713 (-11494) 2227 4631 (-9090),
    defaultRow 1788 (-11364) 2202 4579 (-8988),
    defaultRow 1862 (-11235) 2177 4527 (-8886),
    defaultRow 1937 (-11106) 2152 4475 (-8783),
    defaultRow 2011 (-10977) 2127 4423 (-8681),
    defaultRow 2086 (-10848) 2102 4371 (-8579),
    defaultRow 2160 (-10719) 2077 4319 (-8477),
    defaultRow 2235 (-10589) 2052 4267 (-8375),
    defaultRow 2309 (-10460) 2027 4215 (-8273) ]

/-- Rows 48 to 63 of R43. -/
def defaultRows3 : List (Int × Int × Int × Int × Int) :=
  [ defaultRow 2384 (-10331) 2002 4163 (-8171),
    defaultRow 2458 (-10202) 1977 4111 (-8068),
    defaultRow 2533 (-10073) 1952 4058 (-7966),
    defaultRow 2607 (-9944) 1927 4006 (-7864),
    defaultRow 2682 (-9815) 1902 3954 (-7762),
    defaultRow 2756 (-9685) 1877 3902 (-7660),
    defaultRow 2831 (-9556) 1852 3850 (-7558),
    defaultRow 2905 (-9427) 1827 3798 (-7456),
    defaultRow 2980 (-9298) 1802 3746 (-7353),
    defaultRow 3054 (-9169) 1777 3694 (-7251),
    defaultRow 3129 (-9040) 1752 3642 (-7149),
    defaultRow 3203 (-8910) 1727 3590 (-7047),
    defaultRow 3278 (-8781) 1702 3538 (-6945),
    defaultRow 3352 (-8652) 1677 3486 (-6843),
    defaultRow 3427 (-8523) 1652 3434 (-6741),
    defaultRow 3501 (-8394) 1627 3382 (-6638) ]

/-- Rows 64 to 79 of R43. -/
def defaultRows4 : List (Int × Int × Int × Int × Int) :=
  [ defaultRow 3576 (-8265) 1602 3330 (-6536),
    defaultRow 3650 (-8136) 1577 3278 (-6434),
    defaultRow 3725 (-8006) 1551 3226 (-6332),
    defaultRow 3799 (-7877) 1526 3174 (-6230),
    defaultRow 3874 (-7748) 1501 3122 (-6128),
    defaultRow 3948 (-7619) 1476 3070 (-6025),
    defaultRow 4023 (-7490) 1451 3018 (-5923),
    defaultRow 4097 (-7361) 1426 2966 (-5821),
    defaultRow 4172 (-7232) 1401 2914 (-5719),
    defaultRow 4246 (-7102) 1376 2862 (-5617),
    defaultRow 4321 (-6973) 1351 2810 (-5515),
    defaultRow 4395 (-6844) 1326 2758 (-5413),
    defaultRow 4470 (-6715) 1301 2706 (-5310),
    defaultRow 4544 (-6586) 1276 2654 (-5208),
    defaultRow 4619 (-6457) 1251 2602 (-5106),
    defaultRow 4693 (-6327) 1226 2550 (-5004) ]

/-- Rows 80 to 95 of R43. -/
def defaultRows5 : List (Int × Int × Int × Int × Int) :=
  [ defaultRow 4768 (-6198) 1201 2498 (-4902),
    defaultRow 4842 (-6069) 1176 2446 (-4800),
    defaultRow 4917 (-5940) 1151 2393 (-4698),
    defaultRow 4991 (-5811) 1126 2341 (-4595),
    defaultRow 5066 (-5682) 1101 2289 (-4493),
    defaultRow 5140 (-5553) 1076 2237 (-4391),
    defaultRow 5215 (-5423) 1051 2185 (-4289),
    defaultRow 5289 (-5294) 1026 2133 (-4187),
    defaultRow 5364 (-5165) 1001 2081 (-4085),
    defaultRow 5438 (-5036) 976 2029 (-3983),
    defaultRow 5513 (-4907) 951 1977 (-3880),
    defaultRow 5587 (-4778) 926 1925 (-3778),
    defaultRow 5662 (-4648) 901 1873 (-3676),
    defaultRow 5736 (-4519) 876 1821 (-3574),
    defaultRow 5811 (-4390) 851 1769 (-3472),
    defaultRow 5885 (-4261) 826 1717 (-3370) ]

/-- Rows 96 to 111 of R43. -/
def defaultRows6 : List (Int × Int × Int × Int × Int) :=
  [ defaultRow 5960 (-4132) 801 1665 (-3268),
    defaultRow 6034 (-4003) 776 1613 (-3165),
    defaultRow 6109 (-3874) 751 1561 (-3063),
    defaultRow 6183 (-3744) 726 1509 (-2961),
    defaultRow 6258 (-3615) 701 1457 (-2859),
    defaultRow 6332 (-3486) 676 1405 (-2757),
    defaultRow 6407 (-3357) 651 1353 (-2655),
    defaultRow 6481 (-3228) 626 1301 (-2553),
    defaultRow 6556 (-3099) 601 1249 (-2450),
    defaultRow 6630 (-2969) 576 1197 (-2348),
    defaultRow 6705 (-2840) 551 1145 (-2246),
    defaultRow 6779 (-2711) 526 1093 (-2144),
    defaultRow 6854 (-2582) 500 1041 (-2042),
    defaultRow 6928 (-2453) 475 989 (-1940),
    defaultRow 7003 (-2324) 450 937 (-1838),
    defaultRow 7077 (-2195) 425 885 (-1735) ]

/-- Rows 112 to 127 of R43. -/
def defaultRows7 : List (Int × Int × Int × Int × Int) :=
  [ defaultRow 7152 (-2065) 400 833 (-1633),
    defaultRow 7226 (-1936) 375 780 (-1531),
    defaultRow 7301 (-1807) 350 728 (-1429),
    defaultRow 7375 (-1678) 325 676 (-1327),
    defaultRow 7450 (-1549) 300 624 (-1225),
    defaultRow 7524 (-1420) 275 572 (-1123),
    defaultRow 7599 (-1291) 250 520 (-1020),
    defaultRow 7673 (-1161) 225 468 (-918),
    defaultRow 7748 (-1032) 200 416 (-816),
    defaultRow 7822 (-903) 175 364 (-714),
    defaultRow 7897 (-774) 150 312 (-612),
    defaultRow 7971 (-645) 125 260 (-510),
    defaultRow 8046 (-516) 100 208 (-408),
    defaultRow 8120 (-386) 75 156 (-305),
    defaultRow 8195 (-257) 50 104 (-203),
    defaultRow 8269 (-128) 25 52 (-101) ]

/-- Rows 128 to 143 of R43. -/
def defaultRows8 : List (Int × Int × Int × Int × Int) :=
  [ defaultRow 8344 0 0 0 0,
    defaultRow 8418 129 (-24) (-51) 102,
    defaultRow 8493 258 (-49) (-103) 204,
    defaultRow 8567 387 (-74) (-155) 306,
    defaultRow 8642 517 (-99) (-207) 409,
    defaultRow 8716 646 (-124) (-259) 511,
    defaultRow 8791 775 (-149) (-311) 613,
    defaultRow 8865 904 (-174) (-363) 715,
    defaultRow 8940 1033 (-199) (-415) 817,
    defaultRow 9014 1162 (-224) (-467) 919,
    defaultRow 9089 1292 (-249) (-519) 1021,
    defaultRow 9163 1421 (-274) (-571) 1124,
    defaultRow 9238 1550 (-299) (-623) 1226,
    defaultRow 9312 1679 (-324) (-675) 1328,
    defaultRow 9386 1808 (-349) (-727) 1430,
    defaultRow 9461 1937 (-374) (-779) 1532 ]

/-- Rows 144 to 159 of R43. -/
def defaultRows9 : List (Int × Int × Int × Int × Int) :=
  [ defaultRow 9535 2066 (-399) (-832) 1634,
    defaultRow 9610 2196 (-424) (-884) 1736,
    defaultRow 9684 2325 (-449) (-936) 1839,
    defaultRow 9759 2454 (-474) (-988) 1941,
    defaultRow 9833 2583 (-499) (-1040) 2043,
    defaultRow 9908 2712 (-525) (-1092) 2145,
    defaultRow 9982 2841 (-550) (-1144) 2247,
    defaultRow 10057 2970 (-575) (-1196) 2349,
    defaultRow 10131 3100 (-600) (-1248) 2451,
    defaultRow 10206 3229 (-625) (-1300) 2554,
    defaultRow 10280 3358 (-650) (-1352) 2656,
    defaultRow 10355 3487 (-675) (-1404) 2758,
    defaultRow 10429 3616 (-700) (-1456) 2860,
    defaultRow 10504 3745 (-725) (-1508) 2962,
    defaultRow 10578 3875 (-750) (-1560) 3064,
    defaultRow 10653 4004 (-775) (-1612) 3166 ]

/-- Rows 160 to 175 of R43. -/
def defaultRows10 : List (Int × Int × Int × Int × Int) :=
  [ defaultRow 10727 4133 (-800) (-1664) 3269,
    defaultRow 10802 4262 (-825) (-1716) 3371,
    defaultRow 10876 4391 (-850) (-1768) 3473,
    defaultRow 10951 4520 (-875) (-1820) 3575,
    defaultRow 11025 4649 (-900) (-1872) 3677,
    defaultRow 11100 4779 (-925) (-1924) 3779,
    defaultRow 11174 4908 (-950) (-1976) 3881,
    defaultRow 11249 5037 (-975) (-2028) 3984,
    defaultRow 11323 5166 (-1000) (-2080) 4086,
    defaultRow 11398 5295 (-1025) (-2132) 4188,
    defaultRow 11472 5424 (-1050) (-2184) 4290,
    defaultRow 11547 5554 (-1075) (-2236) 4392,
    defaultRow 11621 5683 (-1100) (-2288) 4494,
    defaultRow 11696 5812 (-1125) (-2340) 4596,
    defaultRow 11770 5941 (-1150) (-2392) 4699,
    defaultRow 11845 6070 (-1175) (-2445) 4801 ]

/-- Rows 176 to 191 of R43. -/
def defaultRows11 : List (Int × Int × Int × Int × Int) :=
  [ defaultRow 11919 6199 (-1200) (-2497) 4903,
    defaultRow 11994 6328 (-1225) (-2549) 5005,
    defaultRow 12068 6458 (-1250) (-2601) 5107,
    defaultRow 12143 6587 (-1275) (-2653) 5209,
    defaultRow 12217 6716 (-1300) (-2705) 5311,
    defaultRow 12292 6845 (-1325) (-2757) 5414,
    defaultRow 12366 6974 (-1350) (-2809) 5516,
    defaultRow 12441 7103 (-1375) (-2861) 5618,
    defaultRow 12515 7233 (-1400) (-2913) 5720,
    defaultRow 12590 7362 (-1425) (-2965) 5822,
    defaultRow 12664 7491 (-1450) (-3017) 5924,
    defaultRow 12739 7620 (-1475) (-3069) 6026,
    defaultRow 12813 7749 (-1500) (-3121) 6129,
    defaultRow 12888 7878 (-1525) (-3173) 6231,
    defaultRow 12962 8007 (-1550) (-3225) 6333,
    defaultRow 13037 8137 (-1576) (-3277) 6435 ]

/-- Rows 192 to 207 of R43. -/
def defaultRows12 : List (Int × Int × Int × Int × Int) :=
  [ defaultRow 13111 8266 (-1601) (-3329) 6537,
    defaultRow 13186 8395 (-1626) (-3381) 6639,
    defaultRow 13260 8524 (-1651) (-3433) 6742,
    defaultRow 13335 8653 (-1676) (-3485) 6844,
    defaultRow 13409 8782 (-1701) (-3537) 6946,
    defaultRow 13484 8911 (-1726) (-3589) 7048,
    defaultRow 13558 9041 (-1751) (-3641) 7150,
    defaultRow 13633 9170 (-1776) (-3693) 7252,
    defaultRow 13707 9299 (-1801) (-3745) 7354,
    defaultRow 13782 9428 (-1826) (-3797) 7457,
    defaultRow 13856 9557 (-1851) (-3849) 7559,
    defaultRow 13931 9686 (-1876) (-3901) 7661,
    defaultRow 14005 9816 (-1901) (-3953) 7763,
    defaultRow 14080 9945 (-1926) (-4005) 7865,
    defaultRow 14154 10074 (-1951) (-4057) 7967,
    defaultRow 14229 10203 (-1976) (-4110) 8069 ]

/-- Rows 208 to 223 of R43. -/
def defaultRows13 : List (Int × Int × Int × Int × Int) :=
  [ defaultRow 14303 10332 (-2001) (-4162) 8172,
    defaultRow 14378 10461 (-2026) (-4214) 8274,
    defaultRow 14452 10590 (-2051) (-4266) 8376,
    defaultRow 14527 10720 (-2076) (-4318) 8478,
    defaultRow 14601 10849 (-2101) (-4370) 8580,
    defaultRow 14676 10978 (-2126) (-4422) 8682,
    defaultRow 14750 11107 (-2151) (-4474) 8784,
    defaultRow 14825 11236 (-2176) (-4526) 8887,
    defaultRow 14899 11365 (-2201) (-4578) 8989,
    defaultRow 14974 11495 (-2226) (-4630) 9091,
    defaultRow 15048 11624 (-2251) (-4682) 9193,
    defaultRow 15123 11753 (-2276) (-4734) 9295,
    defaultRow 15197 11882 (-2301) (-4786) 9397,
    defaultRow 15272 12011 (-2326) (-4838) 9499,
    defaultRow 15346 12140 (-2351) (-4890) 9602,
    defaultRow 15421 12269 (-2376) (-4942) 9704 ]

/-- Rows 224 to 239 of R43. -/
def defaultRows14 : List (Int × Int × Int × Int × Int) :=
  [ defaultRow 15495 12399 (-2401) (-4994) 9806,
    defaultRow 15570 12528 (-2426) (-5046) 9908,
    defaultRow 15644 12657 (-2451) (-5098) 10010,
    defaultRow 15719 12786 (-2476) (-5150) 10112,
    defaultRow 15793 12915 (-2501) (-5202) 10214,
    defaultRow 15868 13044 (-2526) (-5254) 10317,
    defaultRow 15942 13174 (-2551) (-5306) 10419,
    defaultRow 16017 13303 (-2576) (-5358) 10521,
    defaultRow 16091 13432 (-2601) (-5410) 10623,
    defaultRow 16166 13561 (-2627) (-5462) 10725,
    defaultRow 16240 13690 (-2652) (-5514) 10827,
    defaultRow 16315 13819 (-2677) (-5566) 10929,
    defaultRow 16389 13948 (-2702) (-5618) 11032,
    defaultRow 16464 14078 (-2727) (-5670) 11134,
    defaultRow 16538 14207 (-2752) (-5723) 11236,
    defaultRow 16613 14336 (-2777) (-5775) 11338 ]

/-- Rows 240 to 255 of R43. -/
def defaultRows15 : List (Int × Int × Int × Int × Int) :=
  [ defaultRow 16687 14465 (-2802) (-5827) 11440,
    defaultRow 16762 14594 (-2827) (-5879) 11542,
    defaultRow 16836 14723 (-2852) (-5931) 11644,
    defaultRow 16911 14852 (-2877) (-5983) 11747,
    defaultRow 16985 14982 (-2902) (-6035) 11849,
    defaultRow 17060 15111 (-2927) (-6087) 11951,
    defaultRow 17134 15240 (-2952) (-6139) 12053,
    defaultRow 17209 15369 (-2977) (-6191) 12155,
    defaultRow 17283 15498 (-3002) (-6243) 12257,
    defaultRow 17358 15627 (-3027) (-6295) 12359,
    defaultRow 17432 15757 (-3052) (-6347) 12462,
    defaultRow 17507 15886 (-3077) (-6399) 12564,
    defaultRow 17581 16015 (-3102) (-6451) 12666,
    defaultRow 17656 16144 (-3127) (-6503) 12768,
    defaultRow 17730 16273 (-3152) (-6555) 12870,
    defaultRow 17805 16402 (-3177) (-6607) 12972 ]

/-- The 256 rows of R43. -/
def defaultRows : List (Int × Int × Int × Int × Int) :=
  defaultRows0 ++ defaultRows1 ++ defaultRows2 ++ defaultRows3 ++
  defaultRows4 ++ defaultRows5 ++ defaultRows6 ++ defaultRows7 ++
  defaultRows8 ++ defaultRows9 ++ defaultRows10 ++ defaultRows11 ++
  defaultRows12 ++ defaultRows13 ++ defaultRows14 ++ defaultRows15

/-- A signed 16-bit table entry. -/
def s16 (v : Int) : BitVec 16 := BitVec.ofInt 16 v

/-- YTAB: the same contribution to B, G and R, and 0 to A (R43). -/
def defaultYtab : Vector Lanes 256 :=
  ⟨(defaultRows.map fun (y, _, _, _, _) => ⟨s16 y, s16 y, s16 y, 0⟩).toArray, by decide +kernel⟩

/-- UTAB: a contribution to B and G, 0 to R, and 16383 to A (R43). -/
def defaultUtab : Vector Lanes 256 :=
  ⟨(defaultRows.map fun (_, ub, ug, _, _) => ⟨s16 ub, s16 ug, 0, s16 16383⟩).toArray, by decide +kernel⟩

/-- VTAB: a contribution to G and R, and 0 to B and A (R43). -/
def defaultVtab : Vector Lanes 256 :=
  ⟨(defaultRows.map fun (_, _, _, vg, vr) => ⟨0, s16 vg, s16 vr, 0⟩).toArray, by decide +kernel⟩

/-- The default tables (R40, R43). -/
def defaultTables : Tables where
  ytab := defaultYtab
  utab := defaultUtab
  vtab := defaultVtab

/-- Row `i` of a table (R40). -/
def tableRow (t : Vector Lanes 256) (i : Byte) : Lanes := t[i.toNat]'i.isLt

end Sys2Proof.Machine
end

