-- ==== Sys2Proof/Machine/State.lean ====
section
/-! DEFINITION. The state of the machine, as plain data (spec/10_state.md R20-R35, R45-R47; spec/20_memory.md R60).

Every register has one home. STATUS.BUSY is "a command is in flight" (assumption 8); the write-only bits START and
SOFT_RESET and every reserved bit have no storage (R23, R30); ID and the colour tables are platform parameters (R22,
R40). The fields `agenda`, `readData`, `freeCount`, `staleForBlock` and `staleForHost` are the model's own. -/

namespace Sys2Proof.Machine
open Sys2Proof.Config

/-- The six planes of a command (R29). -/
inductive PlaneId where
  | src0 | src1 | src2 | dst0 | dst1 | dst2
  deriving DecidableEq, Repr

/-- A plane descriptor: "pointer to first sample, row stride in bytes" (R12, R29). -/
structure PlaneRegs where
  addr   : Word
  stride : Word
  deriving DecidableEq, Repr

/-- The configuration registers: CMD, WIDTH, HEIGHT, FILL and the plane registers (R25, R27-R29, R32).

DEDUCED, assumption 24: the plane registers are the 13 that the map of R21 and the list in R45 name (six ADDR, six STRIDE
and SRC0_STRIDE2), where R45, R47 and R140 count fifteen. -/
structure CmdRegs where
  cmd         : Word
  width       : Word
  height      : Word
  fill        : Word
  src0        : PlaneRegs
  src0Stride2 : Word
  src1        : PlaneRegs
  src2        : PlaneRegs
  dst0        : PlaneRegs
  dst1        : PlaneRegs
  dst2        : PlaneRegs
  deriving DecidableEq, Repr

/-- A command in flight: the latched copy `L` of the configuration registers (R45), and the only progress state the
model keeps (R46): whether the command has met a hazard that leaves its destination bytes unspecified (R72, R75). -/
structure InFlight where
  regs    : CmdRegs
  tainted : Bool
  deriving DecidableEq, Repr

/-- The registers of one CSC-R instance (R47). -/
structure CscInstance where
  /-- CTRL.IRQ_EN (R23). -/
  irqEn    : Bool
  /-- STATUS.DONE (R24). -/
  done     : Bool
  /-- STATUS.ERR (R24). -/
  err      : Bool
  /-- RESULT (R26). -/
  result   : Word
  /-- The live configuration registers (R25, R27-R29). -/
  regs     : CmdRegs
  /-- The command in flight, with its latched copy; `none` when there is none (R45, R300). -/
  inFlight : Option InFlight
  deriving DecidableEq, Repr

/-- The width of a host access. -/
inductive AccessSize where
  | byte | half | word
  deriving DecidableEq, Repr

/-- One entry of the agenda: what the host or the platform does next, or that an instance's command takes effect now
(R16, R72, R99; assumptions 5 and 6). -/
inductive Event where
  /-- A bus read at a physical address. -/
  | read (a : Word) (size : AccessSize)
  /-- A bus write at a physical address. -/
  | write (a : Word) (size : AccessSize) (v : Word)
  /-- `POLL`: repeat a 32-bit read until `(v AND mask) = value` (R99). -/
  | poll (a mask value : Word)
  /-- The command in flight on instance `k` takes effect and completes (R72). -/
  | run (k : Nat)
  /-- The platform's means of making stores visible where COHERENT is false (R73, R304). -/
  | cacheMaintenance
  /-- Power-on reset (R300). -/
  | powerOnReset
  deriving DecidableEq, Repr

/-- System memory: (address, byte) pairs in one canonical form (`Memory.wf`, Machine/Memory.lean). An address that is
not listed reads 0 (assumption 2). -/
abbrev Memory := List Host.Cell

/-- The machine. The instances are `before ++ inst :: after`; `inst`, the one that executes, is instance number
`before.length` (R20, R285; assumption 7). -/
structure State where
  /-- The instances numbered below the current one. -/
  before        : List CscInstance
  /-- The current instance. -/
  inst          : CscInstance
  /-- The instances numbered above the current one. -/
  after         : List CscInstance
  /-- System memory (R60). -/
  mem           : Memory
  /-- The platform parameters (R6); never changed by a step. -/
  plat          : Platform
  /-- What the host and the platform do next, first entry first (model's own). -/
  agenda        : List Event
  /-- What the host's last read returned (model's own). -/
  readData      : Word
  /-- Addresses the host wrote since the last maintenance, COHERENT false (model's own, R73). -/
  staleForBlock : List Word
  /-- Addresses the block wrote since the last maintenance, COHERENT false (model's own, R73). -/
  staleForHost  : List Word
  /-- The number of the next draw of free values (model's own, assumption 1). -/
  freeCount     : Nat
  deriving DecidableEq, Repr

/-- Why a step can stop the machine with a fault: never. "No command, register access or memory condition causes a
trap, exception vector, or abort" (R274), so the type has no constructor: a command that fails completes with a status
code, which is a next state. -/
inductive Fault where
  deriving DecidableEq, Repr

/-- Why the model gives no meaning. -/
inductive Refusal where
  /-- An instruction whose meaning is not written: raised by `exec` only, in an arm that names the instruction. Safe.
  No arm raises it. -/
  | notModelled (mnemonic : String)
  /-- A host access inside a register window that is not an aligned 32-bit one; "a model refuses it" (R31, I12). Raised
  by a `read`, `write` or `poll` of the agenda. Safe. -/
  | windowAccess (a : Word)
  /-- A host access with a byte that is neither in a register window nor Mapped; `refuse` (I20). Raised by a `read`,
  `write` or `poll` of the agenda. Safe. -/
  | hostUnmapped (a : Word)
  deriving DecidableEq, Repr

/-- A plane descriptor after reset (R300). -/
def PlaneRegs.reset : PlaneRegs := ⟨0, 0⟩

/-- The configuration registers after reset: all 0 (R300). -/
def CmdRegs.reset : CmdRegs where
  cmd         := 0
  width       := 0
  height      := 0
  fill        := 0
  src0        := .reset
  src0Stride2 := 0
  src1        := .reset
  src2        := .reset
  dst0        := .reset
  dst1        := .reset
  dst2        := .reset

/-- An instance after reset: idle, every register 0 (R300, R301). -/
def CscInstance.reset : CscInstance where
  irqEn    := false
  done     := false
  err      := false
  result   := 0
  regs     := .reset
  inFlight := none

/-- The platform of `State.reset`: the defaults R6 shows (ID_VALUE, tables, COHERENT), and for the OPEN parameters
CSC_BASE, Mapped and IRQ_LINE a choice of the model's (DESIGN CHOICE, assumption 3). -/
def Platform.atReset : Platform where
  cscBase  := 0xF0000000
  idValue  := idValueDefault
  tables   := defaultTables
  memory   := [⟨0, 2 ^ 32⟩]
  coherent := true
  irqLines := [⟨0, 0⟩]

/-- The machine right after power-on reset (R300): one idle instance (N_INSTANCES = 1, R6), memory with nothing listed,
nothing on the agenda. -/
def State.reset : State where
  before        := []
  inst          := .reset
  after         := []
  mem           := []
  plat          := Platform.atReset
  agenda        := []
  readData      := 0
  staleForBlock := []
  staleForHost  := []
  freeCount     := 0

end Sys2Proof.Machine
end

