-- ==== Sys2Proof/Machine/Flags.lean ====
section
/-! DEFINITION. The block's flags and status codes: STATUS, CTRL and the IRQ line (spec/10_state.md R23, R24, R35),
RESULT's values and completion (spec/60_exceptions.md R270-R272), and START's effect on them (spec/41_command_model.md
R140). -/

namespace Sys2Proof.Machine

/-! ## Status codes (R270), as s32 bit patterns -/

/-- 0, OK. -/
def codeOk : Word := 0

/-- -1, INVALID_ARGUMENT. -/
def codeInvalidArgument : Word := BitVec.ofInt 32 (-1)

/-- -2, ILLEGAL_COMMAND. -/
def codeIllegalCommand : Word := BitVec.ofInt 32 (-2)

/-- -3, BUS_ERROR. -/
def codeBusError : Word := BitVec.ofInt 32 (-3)

/-! ## The flags -/

/-- STATUS.BUSY: a command is in flight (R24). -/
def CscInstance.busy (x : CscInstance) : Bool := x.inFlight.isSome

/-- The IRQ line: `STATUS.DONE AND CTRL.IRQ_EN` (R35, R278). -/
def CscInstance.irq (x : CscInstance) : Bool := x.done && x.irqEn

/-- STATUS: BUSY in bit 0, DONE in bit 1, ERR in bit 2, the rest 0 (R24, R30). -/
def CscInstance.statusWord (x : CscInstance) : Word := bitAt x.busy 0 ||| bitAt x.done 1 ||| bitAt x.err 2

/-- CTRL: IRQ_EN in bit 1, every other bit reads 0 (R23, R30). -/
def CscInstance.ctrlWord (x : CscInstance) : Word := bitAt x.irqEn 1

/-- A write to STATUS: 1 clears DONE (bit 1) or ERR (bit 2), 0 has no effect, BUSY is read-only (R24). -/
def CscInstance.acknowledge (x : CscInstance) (v : Word) : CscInstance :=
  { x with done := x.done && !v.getLsbD 1, err := x.err && !v.getLsbD 2 }

/-- Completion: `RESULT <- c`, BUSY cleared, DONE set, ERR set exactly when c < 0 (R272); the latched copy is discarded
(R277, assumption 8). -/
def CscInstance.complete (x : CscInstance) (c : Word) : CscInstance :=
  { x with result := c, inFlight := none, done := true, err := sext32 c < 0 }

/-- An accepted START: the configuration registers are latched, BUSY set, DONE and ERR cleared, RESULT unchanged
(R140, R45). -/
def CscInstance.start (x : CscInstance) : CscInstance :=
  { x with inFlight := some ⟨x.regs, false⟩, done := false, err := false }

end Sys2Proof.Machine
end

