-- ==== Sys2Proof/Machine/Operands.lean ====
section
/-! DEFINITION. The operands of a command: register operands (spec/30_encoding.md R92), the size check and the flip
(spec/41_command_model.md R145-R147), the planes with their rows (R148-R150, spec/30_encoding.md R97), and what a
command does to the bytes of its planes, as one `Operation` per command. -/

namespace Sys2Proof.Machine
open Sys2Proof.Config

/-! ## Register operands (R92) -/

/-- The descriptor registers of a plane (R29). -/
def CmdRegs.plane (L : CmdRegs) : PlaneId → PlaneRegs
  | .src0 => L.src0
  | .src1 => L.src1
  | .src2 => L.src2
  | .dst0 => L.dst0
  | .dst1 => L.dst1
  | .dst2 => L.dst2

/-- `L.P_ADDR` (R92: zext_32). -/
def CmdRegs.addrOf (L : CmdRegs) (p : PlaneId) : Word := (L.plane p).addr

/-- `L.P_STRIDE` as s32 (R92). -/
def CmdRegs.strideOf (L : CmdRegs) (p : PlaneId) : Int := sext32 (L.plane p).stride

/-- `W = sext_32(L.WIDTH)` (R145). -/
def CmdRegs.signedWidth (L : CmdRegs) : Int := sext32 L.width

/-- `H = sext_32(L.HEIGHT)` (R145). -/
def CmdRegs.signedHeight (L : CmdRegs) : Int := sext32 L.height

/-- FILL_Y, FILL[7:0] (R28). -/
def CmdRegs.fillY (L : CmdRegs) : Byte := L.fill.extractLsb' 0 8

/-- FILL_U, FILL[15:8] (R28). -/
def CmdRegs.fillU (L : CmdRegs) : Byte := L.fill.extractLsb' 8 8

/-- FILL_V, FILL[23:16] (R28). -/
def CmdRegs.fillV (L : CmdRegs) : Byte := L.fill.extractLsb' 16 8

/-! ## Validation and geometry (R144-R146) -/

/-- The size check (R145): `W > 0`, `H ≠ 0` and `H ≠ -2^31`. -/
def CmdRegs.sizeOk (L : CmdRegs) : Bool :=
  0 < L.signedWidth && L.signedHeight != 0 && L.signedHeight != -2 ^ 31

/-- The pointer check (R144): some required plane's address is 0. -/
def CmdRegs.nullPlane (L : CmdRegs) (req : List PlaneId) : Bool := req.any fun p => L.addrOf p == 0

/-- `cdiv2(n)`, ceil(n/2) (R9). -/
def cdiv2 (n : Nat) : Nat := (n + 1) / 2

/-- The normalised geometry of a command (R146). -/
structure Geometry where
  w    : Nat
  h    : Nat
  flip : Bool
  deriving DecidableEq, Repr

/-- `cw`, the chroma width (R146). -/
def Geometry.cw (g : Geometry) : Nat := cdiv2 g.w

/-- `ch`, the chroma height (R146). -/
def Geometry.ch (g : Geometry) : Nat := cdiv2 g.h

/-- `w = W`, `h = |H|`, `flip = (H < 0)` (R146). -/
def CmdRegs.geometry (L : CmdRegs) : Geometry where
  w    := L.signedWidth.toNat
  h    := L.signedHeight.natAbs
  flip := L.signedHeight < 0

/-! ## Rows (R147-R150) -/

/-- A single-stride plane's stored row (R148(a)). -/
def storedRow (addr : Word) (stride : Int) (k : Nat) : Int := zext32 addr + k * stride

/-- PCOPY2's SRC0: `S1` after an even row, `S2` after an odd one (R148(b)). -/
def storedRowTwoStride (addr : Word) (s1 s2 : Int) (k : Nat) : Int :=
  zext32 addr + ((k + 1) / 2 : Nat) * s1 + (k / 2 : Nat) * s2

/-- M420's luma rows (R148(c)). -/
def storedRowM420Y (addr : Word) (s : Int) (k : Nat) : Int :=
  zext32 addr + (3 * (k / 2) + k % 2 : Nat) * s

/-- M420's chroma rows (R148(c)). -/
def storedRowM420UV (addr : Word) (s : Int) (j : Nat) : Int := zext32 addr + (3 * j + 2 : Nat) * s

/-- The stored row that iteration row `r` of `rows` is (R147, R150). -/
def iterationRow (flipped : Bool) (rows r : Nat) : Nat := if flipped then rows - 1 - r else r

/-- A plane as a command uses it: its row count `h_P`, its row byte count `RB_P` (R97), and `RowAddr(P, r)` (R150). -/
structure Plane where
  rows  : Nat
  bytes : Nat
  row   : Nat → Word

/-- A plane from its stored rows (R150). -/
def Plane.make (stored : Nat → Int) (flipped : Bool) (rows bytes : Nat) : Plane where
  rows  := rows
  bytes := bytes
  row r := toAddress (stored (iterationRow flipped rows r))

/-- The address of byte `i` of row `r` (R150, R62). -/
def Plane.byteAddr (p : Plane) (r i : Nat) : Word := p.row r + BitVec.ofNat 32 i

/-- A single-stride source plane: reversed when the command flips (R147, R148(a)). -/
def srcPlane (L : CmdRegs) (g : Geometry) (p : PlaneId) (rows bytes : Nat) : Plane :=
  Plane.make (storedRow (L.addrOf p) (L.strideOf p)) g.flip rows bytes

/-- PCOPY2's source plane (R148(b)). -/
def srcPlaneTwoStride (L : CmdRegs) (g : Geometry) (rows bytes : Nat) : Plane :=
  Plane.make (storedRowTwoStride (L.addrOf .src0) (L.strideOf .src0) (sext32 L.src0Stride2)) g.flip rows bytes

/-- M420's derived luma plane (R148(c)). -/
def srcPlaneM420Y (L : CmdRegs) (g : Geometry) (rows bytes : Nat) : Plane :=
  Plane.make (storedRowM420Y (L.addrOf .src0) (L.strideOf .src0)) g.flip rows bytes

/-- M420's derived chroma plane (R148(c)). -/
def srcPlaneM420UV (L : CmdRegs) (g : Geometry) (rows bytes : Nat) : Plane :=
  Plane.make (storedRowM420UV (L.addrOf .src0) (L.strideOf .src0)) g.flip rows bytes

/-- A destination plane of a command that has a source: never reversed (R147). -/
def dstPlane (L : CmdRegs) (p : PlaneId) (rows bytes : Nat) : Plane :=
  Plane.make (storedRow (L.addrOf p) (L.strideOf p)) false rows bytes

/-- A destination plane of a command without a source: reversed when the command flips (R147). -/
def fillPlane (L : CmdRegs) (g : Geometry) (p : PlaneId) (rows bytes : Nat) : Plane :=
  Plane.make (storedRow (L.addrOf p) (L.strideOf p)) g.flip rows bytes

/-- The three planes of an I420 destination: Y h x w, U and V ch x cw (R97). -/
def i420Dst (L : CmdRegs) (g : Geometry) : List Plane :=
  [dstPlane L .dst0 g.h g.w, dstPlane L .dst1 g.ch g.cw, dstPlane L .dst2 g.ch g.cw]

/-- The three planes of an I420 source (R97). -/
def i420Src (L : CmdRegs) (g : Geometry) : List Plane :=
  [srcPlane L g .src0 g.h g.w, srcPlane L g .src1 g.ch g.cw, srcPlane L g .src2 g.ch g.cw]

/-! ## Operations -/

/-- The bytes of a command's source planes: `src p r i` is byte `i` of row `r` of its `p`-th source plane (R12). -/
abbrev SourceBytes := Nat → Nat → Nat → Byte

/-- What a command does once its operands are known: its source and destination planes, in the order of R97, the value
its rule gives byte `i` of row `r` of its `p`-th destination plane, and whether R69's in-place exception names it. -/
structure Job where
  srcs    : List Plane
  dsts    : List Plane
  value   : SourceBytes → (p r i : Nat) → Byte
  inPlace : Bool

/-- A command's rule: the planes it requires (R143) and its job. -/
structure Operation where
  req : List PlaneId
  job : Tables → CmdRegs → Geometry → Job

end Sys2Proof.Machine
end

