-- ==== Sys2Proof/Machine/Footprint.lean ====
section
/-! DEFINITION. Footprints and what can go wrong between them (spec/20_memory.md R66-R69, R75). A footprint is held as
its rows: each row is a run of consecutive byte addresses modulo 2^32. -/

namespace Sys2Proof.Machine

/-- A run of `len` consecutive byte addresses from `base`, modulo 2^32. -/
structure ByteRange where
  base : Word
  len  : Nat
  deriving DecidableEq, Repr

/-- The run contains an address. -/
def ByteRange.has (x : ByteRange) (a : Word) : Bool := (a - x.base).toNat < x.len

/-- Two runs share an address: neither is empty, and one of them contains the other's first address. -/
def ByteRange.overlaps (x y : ByteRange) : Bool := 0 < x.len && 0 < y.len && (x.has y.base || y.has x.base)

/-- The `i`-th address of a run. -/
def ByteRange.addr (x : ByteRange) (i : Nat) : Word := x.base + BitVec.ofNat 32 i

/-- A property of every address of a list of runs. -/
def allAddrs (xs : List ByteRange) (ok : Word → Bool) : Bool :=
  xs.all fun x => (List.range x.len).all fun i => ok (x.addr i)

/-- Some address is in a run of each list. -/
def rangesMeet (xs ys : List ByteRange) : Bool := xs.any fun x => ys.any fun y => x.overlaps y

/-- No address is designated twice: no run laps the address space and no two runs overlap. -/
def noneTwice : List ByteRange → Bool
  | [] => true
  | x :: xs => x.len ≤ 2 ^ 32 && xs.all (fun y => !x.overlaps y) && noneTwice xs

/-- The rows of a plane, one run each: `Foot(P)` (R66). -/
def Plane.ranges (p : Plane) : List ByteRange := (List.range p.rows).map fun r => ⟨p.row r, p.bytes⟩

/-- The source footprint SF (R66). -/
def Job.sf (j : Job) : List ByteRange := j.srcs.flatMap Plane.ranges

/-- The destination footprint DF (R66). -/
def Job.df (j : Job) : List ByteRange := j.dsts.flatMap Plane.ranges

/-- An address is in SF. -/
def Job.reads (j : Job) (a : Word) : Bool := j.sf.any fun x => x.has a

/-- An address is in DF. -/
def Job.writes (j : Job) (a : Word) : Bool := j.df.any fun x => x.has a

/-- R69's condition: the command is one the exception names, and its source and destination rows coincide.

DEDUCED, assumption 25: the rows are those of R150, in iteration order, so a flipped command whose source stride is the
negated destination stride can meet it, although R69 also says of a flipped command of more than one row that it falls
under R68(b). -/
def Job.inPlaceExact (j : Job) : Bool :=
  j.inPlace && match j.srcs, j.dsts with
    | [s], [d] => (List.range d.rows).all fun r => s.row r == d.row r
    | _, _ => false

/-- The command is well-formed in memory: neither (a) nor (b) of R68 holds, R69 excepting (b). -/
def Job.memWellFormed (j : Job) : Bool :=
  noneTwice j.df && (j.inPlaceExact || !rangesMeet j.df j.sf)

/-- The destination of one of two commands meets the source or destination of the other (R75). -/
def Job.conflictsWith (j k : Job) : Bool :=
  rangesMeet j.df k.df || rangesMeet j.df k.sf || rangesMeet k.df j.sf

/-- The writes of a command, in the order of its planes, rows and bytes: each write position's address and the value the
rule gives it (R66, R153). -/
def Job.stores (j : Job) (src : SourceBytes) : List (Word × Byte) :=
  j.dsts.zipIdx.flatMap fun (p, k) =>
    (List.range p.rows).flatMap fun r =>
      (List.range p.bytes).map fun i => (p.byteAddr r i, j.value src k r i)

end Sys2Proof.Machine
end

