-- ==== Sys2Proof/Machine/Memory.lean ====
section
/-! DEFINITION. System memory: 2^32 bytes, read and written one byte at a time (spec/20_memory.md R60, R65). -/

namespace Sys2Proof.Machine

/-- What an address that is not listed reads as. The spec leaves the contents of memory to the platform (R300); 0 is the
model's choice, the convention of spec/95_test_vectors.md (DESIGN CHOICE, assumption 2). -/
def unlistedByte : Byte := 0

/-- The byte at an address. -/
def Memory.read : Memory → Nat → Byte
  | [], _ => unlistedByte
  | (k, b) :: m, a => if k = a then b else Memory.read m a

/-- Lists a byte at an address, keeping the list in address order. -/
def Memory.insertAt : Memory → Nat → Byte → Memory
  | [], a, v => [(a, v)]
  | (k, b) :: m, a, v =>
    if a < k then (a, v) :: (k, b) :: m
    else if a = k then (a, v) :: m
    else (k, b) :: Memory.insertAt m a v

/-- Stores one byte. Storing what an unlisted address reads as removes the entry. -/
def Memory.write (m : Memory) (a : Nat) (v : Byte) : Memory :=
  if v = unlistedByte then m.filter (fun c => c.1 != a) else m.insertAt a v

/-- Stores a list of bytes, each at its own address, first to last. -/
def Memory.writeAll (m : Memory) : List (Word × Byte) → Memory
  | [] => m
  | (a, v) :: ws => Memory.writeAll (m.write a.toNat v) ws

/-- Addresses strictly rise. -/
def Memory.rising : Memory → Bool
  | [] => true
  | [_] => true
  | c :: d :: m => c.1 < d.1 && Memory.rising (d :: m)

/-- The canonical form: addresses strictly rise, every address is one of the 2^32 (R60), and no entry equals what an
unlisted address reads as. -/
def Memory.wf (m : Memory) : Bool :=
  m.rising && m.all fun c => c.1 < 2 ^ 32 && c.2 != unlistedByte

/-- `MemRead(a, n)` as bytes: the `n` bytes at a, a+1, ... (mod 2^32), lowest address first (R10, R62). -/
def Memory.readBytes (m : Memory) (a : Word) (n : Nat) : List Byte :=
  (List.range n).map fun i => m.read (a + BitVec.ofNat 32 i).toNat

/-- `MemRead(a, n)`: the bytes as an unsigned integer, the byte at `a` least significant (R10, R63). -/
def Memory.readLE (m : Memory) (a : Word) (n : Nat) : Nat := ofBytes (m.readBytes a n)

end Sys2Proof.Machine
end

