-- ==== Sys2Proof/Syntax/Formats.lean ====
section
/-! DEFINITION. The operand forms of a command: the meanings of the fields SORD, DORD and LAY (spec/30_encoding.md
R91). -/

namespace Sys2Proof

/-- The 32-bit channel orders, codes 0 to 3 (R91). Their byte layouts are in Machine/ColorMath.lean. -/
inductive ChanOrder where
  | argb | bgra | abgr | rgba
  deriving DecidableEq, Repr

/-- The 24-bit layouts, codes 0 and 1 (R91). -/
inductive Rgb24Layout where
  | rgb24 | raw
  deriving DecidableEq, Repr

/-- The byte orders of a packed 4:2:2 macropixel, codes 0 and 1 (R91). -/
inductive Yuv422Order where
  | yuyv | uyvy
  deriving DecidableEq, Repr

/-- The biplanar source layouts, codes 0 and 1 of LAY (R91). -/
inductive BiplanarLayout where
  | nv12 | m420
  deriving DecidableEq, Repr

end Sys2Proof
end

