-- ==== Sys2Proof/Syntax.lean ====
section
/-! DEFINITION. The commands of the CSC-R block: one constructor per row of spec/opcode_table.json, each with the
fields its row leaves free (spec/30_encoding.md R93). The block has no general register file, no program counter and no
immediates: every other operand of a command comes from the latched registers (R33, R92). -/

namespace Sys2Proof

/-- A command, decoded (R93, R96). -/
inductive Instr where
  /-- 0x01, copy a plane (R170). -/
  | pcopy
  /-- 0x02, copy with two alternating source strides (R171). -/
  | pcopy2
  /-- 0x03, mirror each row (R172). -/
  | pmirror
  /-- 0x04, fill a plane (R173). -/
  | pset
  /-- 0x05, de-interleave 2-byte elements (R174). -/
  | psplit2
  /-- 0x10, copy a planar 4:2:0 frame (R190). -/
  | i420copy
  /-- 0x11, mirror a planar 4:2:0 frame (R191). -/
  | i420mirror
  /-- 0x12, fill a planar 4:2:0 rectangle (R192). -/
  | i420rect
  /-- 0x13, planar 4:2:2 to planar 4:2:0 (R193). -/
  | i422toi420
  /-- 0x14, biplanar 4:2:0 to planar 4:2:0 (R194, R195). -/
  | nv420toi420 (lay : BiplanarLayout)
  /-- 0x15, packed 4:2:2 to planar 4:2:0 (R196). -/
  | p422toi420 (sord : Yuv422Order)
  /-- 0x20, planar 4:2:0 to RGB32 (R211). -/
  | i420torgb32 (dord : ChanOrder)
  /-- 0x21, planar 4:2:2 to RGB32 (R212). -/
  | i422torgb32 (dord : ChanOrder)
  /-- 0x22, planar 4:4:4 to RGB32 (R213). -/
  | i444torgb32 (dord : ChanOrder)
  /-- 0x23, grayscale to RGB32 (R214). -/
  | i400torgb32 (dord : ChanOrder)
  /-- 0x30, RGB32 to RGB565 (R231). -/
  | rgb32torgb565 (sord : ChanOrder)
  /-- 0x31, RGB32 to ARGB1555 (R232). -/
  | rgb32toargb1555 (sord : ChanOrder)
  /-- 0x32, RGB32 to ARGB4444 (R233). -/
  | rgb32toargb4444 (sord : ChanOrder)
  /-- 0x38, RGB32 to 24-bit RGB (R234). -/
  | rgb32torgb24 (sord : ChanOrder) (dord : Rgb24Layout)
  /-- 0x39, 24-bit RGB to RGB32 (R235). -/
  | rgb24torgb32 (sord : Rgb24Layout) (dord : ChanOrder)
  /-- 0x3A, reorder the channels of RGB32 (R236). -/
  | rgb32reorder (sord dord : ChanOrder)
  /-- 0x40, RGB32 to grayscale (R250). -/
  | rgb32toi400 (sord : ChanOrder)
  /-- 0x41, RGB32 to planar 4:2:0 (R251). -/
  | rgb32toi420 (sord : ChanOrder)
  deriving DecidableEq, Repr

end Sys2Proof
end

