-- ==== Sys2Proof/Syntax/Asm.lean ====
section
/-! DEFINITION. The assembler's terms: a mnemonic with its dotted suffixes (spec/30_encoding.md R98) and the
pseudo-commands (R100). A term may be ill-formed; the check is in WellFormed.lean. -/

namespace Sys2Proof

/-- The mnemonics of the opcode table (R93). -/
inductive Mnemonic where
  | PCOPY | PCOPY2 | PMIRROR | PSET | PSPLIT2
  | I420COPY | I420MIRROR | I420RECT | I422TOI420 | NV420TOI420 | P422TOI420
  | I420TORGB32 | I422TORGB32 | I444TORGB32 | I400TORGB32
  | RGB32TORGB565 | RGB32TOARGB1555 | RGB32TOARGB4444
  | RGB32TORGB24 | RGB24TORGB32 | RGB32REORDER
  | RGB32TOI400 | RGB32TOI420
  deriving DecidableEq, Repr

/-- A dotted suffix (R98). -/
inductive Suffix where
  | order (o : ChanOrder)
  | rgb24 (l : Rgb24Layout)
  | yuv422 (o : Yuv422Order)
  | biplanar (l : BiplanarLayout)
  deriving DecidableEq, Repr

/-- What kind of suffix a free field takes (R91, R98). -/
inductive SuffixKind where
  | order | rgb24 | yuv422 | biplanar
  deriving DecidableEq, Repr

/-- The kind of a suffix. -/
def Suffix.kind : Suffix → SuffixKind
  | .order _ => .order
  | .rgb24 _ => .rgb24
  | .yuv422 _ => .yuv422
  | .biplanar _ => .biplanar

/-- A command as it is written: `MNEMONIC` and its suffixes in the order SORD, DORD, LAY (R98). -/
structure AsmCommand where
  mnemonic : Mnemonic
  suffixes : List Suffix
  deriving DecidableEq, Repr

/-- The free fields of each mnemonic's row, in the order SORD, DORD, LAY (R93, R98). -/
def Mnemonic.freeFields : Mnemonic → List SuffixKind
  | .PCOPY | .PCOPY2 | .PMIRROR | .PSET | .PSPLIT2 => []
  | .I420COPY | .I420MIRROR | .I420RECT | .I422TOI420 => []
  | .NV420TOI420 => [.biplanar]
  | .P422TOI420 => [.yuv422]
  | .I420TORGB32 | .I422TORGB32 | .I444TORGB32 | .I400TORGB32 => [.order]
  | .RGB32TORGB565 | .RGB32TOARGB1555 | .RGB32TOARGB4444 => [.order]
  | .RGB32TORGB24 => [.order, .rgb24]
  | .RGB24TORGB32 => [.rgb24, .order]
  | .RGB32REORDER => [.order, .order]
  | .RGB32TOI400 | .RGB32TOI420 => [.order]

/-- The pseudo-commands of R100. -/
inductive Pseudo where
  | NV12TOI420 | M420TOI420 | YUY2TOI420 | UYVYTOI420
  | I420TOARGB | I420TOBGRA | I420TOABGR | I420TORGBA
  | I422TOARGB | I444TOARGB | I400TOARGB
  | ARGBTORGB565 | ARGBTOARGB1555 | ARGBTOARGB4444
  | ARGBTORGB24 | ARGBTORAW | RGB24TOARGB | RAWTOARGB
  | ARGBTOBGRA | BGRATOARGB | ARGBTOABGR | ABGRTOARGB
  | ARGBTOI400 | ARGBTOI420 | BGRATOI420 | ABGRTOI420
  deriving DecidableEq, Repr

end Sys2Proof
end

