-- ==== Sys2Proof/WellFormed.lean ====
section
/-! DEFINITION. Which terms are well-formed.

An `Instr` carries its fields as the named alternatives of spec/30_encoding.md R91, each exactly as wide as R93 leaves
the field free, so every value of the type is a legal command and there is nothing left to check of it. Two kinds of
term can be ill-formed: raw field values (R90's widths) and an assembler term (R98's rules). -/

namespace Sys2Proof

/-- The raw fields of a command word (R90). -/
structure CmdFields where
  op       : Nat
  sord     : Nat
  dord     : Nat
  lay      : Nat
  reserved : Nat
  deriving DecidableEq, Repr

/-- OP is 8 bits wide (R90). -/
def CmdFields.opFits (f : CmdFields) : Bool := f.op < 256

/-- SORD is 2 bits wide (R90). -/
def CmdFields.sordFits (f : CmdFields) : Bool := f.sord < 4

/-- DORD is 2 bits wide (R90). -/
def CmdFields.dordFits (f : CmdFields) : Bool := f.dord < 4

/-- LAY is 1 bit wide (R90). -/
def CmdFields.layFits (f : CmdFields) : Bool := f.lay < 2

/-- Bits 31:13 must be 0 (R90). -/
def CmdFields.reservedZero (f : CmdFields) : Bool := f.reserved == 0

/-- The fields fit a command word (R90). -/
def CmdFields.wellFormed (f : CmdFields) : Bool :=
  f.opFits && f.sordFits && f.dordFits && f.layFits && f.reservedZero

/-- R98: an omitted suffix means code 0, and where an opcode has two free fields either both suffixes are written or
neither is. -/
def AsmCommand.suffixCountOk (c : AsmCommand) : Bool :=
  c.suffixes.isEmpty || c.suffixes.length == c.mnemonic.freeFields.length

/-- R98: each written suffix is of the kind its field takes, in the order SORD, DORD, LAY. -/
def AsmCommand.suffixKindsOk (c : AsmCommand) : Bool :=
  ((c.suffixes.map Suffix.kind).zip c.mnemonic.freeFields).all fun p => p.1 == p.2

/-- An assembler term is well-formed when both rules of R98 hold. -/
def AsmCommand.wellFormed (c : AsmCommand) : Bool :=
  c.suffixCountOk && c.suffixKindsOk

end Sys2Proof
end

