-- ==== Sys2Proof/Decode.lean ====
section
/-! DEFINITION. The command decoder and encoder (spec/30_encoding.md R90-R96), the opcode map as R93 prints it, and the
assembler (R98, R100).

A command word is one 32-bit value; it is latched from CMD, never fetched from memory (R77), so there is no byte stream
to take it from (assumption 10). `decode` is total: a word is one legal command or it is illegal, `none` (R94, R95). -/

namespace Sys2Proof

/-! ## Field codes (R91) -/

/-- The code of a 32-bit channel order. -/
def ChanOrder.code : ChanOrder → Nat
  | .argb => 0
  | .bgra => 1
  | .abgr => 2
  | .rgba => 3

/-- The 32-bit channel order of a code. -/
def ChanOrder.ofCode? : Nat → Option ChanOrder
  | 0 => some .argb
  | 1 => some .bgra
  | 2 => some .abgr
  | 3 => some .rgba
  | _ => none

/-- The code of a 24-bit layout. -/
def Rgb24Layout.code : Rgb24Layout → Nat
  | .rgb24 => 0
  | .raw => 1

/-- The 24-bit layout of a code; SORD[1] or DORD[1] must be 0 where only bit 0 is free (R93). -/
def Rgb24Layout.ofCode? : Nat → Option Rgb24Layout
  | 0 => some .rgb24
  | 1 => some .raw
  | _ => none

/-- The code of a packed 4:2:2 byte order. -/
def Yuv422Order.code : Yuv422Order → Nat
  | .yuyv => 0
  | .uyvy => 1

/-- The packed 4:2:2 byte order of a code; SORD[1] must be 0 (R93). -/
def Yuv422Order.ofCode? : Nat → Option Yuv422Order
  | 0 => some .yuyv
  | 1 => some .uyvy
  | _ => none

/-- The code of a biplanar layout. -/
def BiplanarLayout.code : BiplanarLayout → Nat
  | .nv12 => 0
  | .m420 => 1

/-- The biplanar layout of a code. -/
def BiplanarLayout.ofCode? : Nat → Option BiplanarLayout
  | 0 => some .nv12
  | 1 => some .m420
  | _ => none

/-! ## Decoding -/

/-- The fields of a command word (R90). -/
def CmdFields.ofWord (w : Word) : CmdFields where
  op       := w.toNat % 2 ^ 8
  sord     := w.toNat / 2 ^ 8 % 2 ^ 2
  dord     := w.toNat / 2 ^ 10 % 2 ^ 2
  lay      := w.toNat / 2 ^ 12 % 2 ^ 1
  reserved := w.toNat / 2 ^ 13

/-- `some i` when the named fields are 0, as they must be where the opcode does not use them (R93). -/
def whenZero (unused : List Nat) (i : Option Instr) : Option Instr :=
  if unused.all (· == 0) then i else none

/-- The command of a set of fields, by opcode (R93). -/
def CmdFields.instr? (f : CmdFields) : Option Instr :=
  match f.op with
  | 0x01 => whenZero [f.sord, f.dord, f.lay] (some .pcopy)
  | 0x02 => whenZero [f.sord, f.dord, f.lay] (some .pcopy2)
  | 0x03 => whenZero [f.sord, f.dord, f.lay] (some .pmirror)
  | 0x04 => whenZero [f.sord, f.dord, f.lay] (some .pset)
  | 0x05 => whenZero [f.sord, f.dord, f.lay] (some .psplit2)
  | 0x10 => whenZero [f.sord, f.dord, f.lay] (some .i420copy)
  | 0x11 => whenZero [f.sord, f.dord, f.lay] (some .i420mirror)
  | 0x12 => whenZero [f.sord, f.dord, f.lay] (some .i420rect)
  | 0x13 => whenZero [f.sord, f.dord, f.lay] (some .i422toi420)
  | 0x14 => whenZero [f.sord, f.dord] ((BiplanarLayout.ofCode? f.lay).map .nv420toi420)
  | 0x15 => whenZero [f.dord, f.lay] ((Yuv422Order.ofCode? f.sord).map .p422toi420)
  | 0x20 => whenZero [f.sord, f.lay] ((ChanOrder.ofCode? f.dord).map .i420torgb32)
  | 0x21 => whenZero [f.sord, f.lay] ((ChanOrder.ofCode? f.dord).map .i422torgb32)
  | 0x22 => whenZero [f.sord, f.lay] ((ChanOrder.ofCode? f.dord).map .i444torgb32)
  | 0x23 => whenZero [f.sord, f.lay] ((ChanOrder.ofCode? f.dord).map .i400torgb32)
  | 0x30 => whenZero [f.dord, f.lay] ((ChanOrder.ofCode? f.sord).map .rgb32torgb565)
  | 0x31 => whenZero [f.dord, f.lay] ((ChanOrder.ofCode? f.sord).map .rgb32toargb1555)
  | 0x32 => whenZero [f.dord, f.lay] ((ChanOrder.ofCode? f.sord).map .rgb32toargb4444)
  | 0x38 => whenZero [f.lay] <| match ChanOrder.ofCode? f.sord, Rgb24Layout.ofCode? f.dord with
      | some s, some d => some (.rgb32torgb24 s d)
      | _, _ => none
  | 0x39 => whenZero [f.lay] <| match Rgb24Layout.ofCode? f.sord, ChanOrder.ofCode? f.dord with
      | some s, some d => some (.rgb24torgb32 s d)
      | _, _ => none
  | 0x3A => whenZero [f.lay] <| match ChanOrder.ofCode? f.sord, ChanOrder.ofCode? f.dord with
      | some s, some d => some (.rgb32reorder s d)
      | _, _ => none
  | 0x40 => whenZero [f.dord, f.lay] ((ChanOrder.ofCode? f.sord).map .rgb32toi400)
  | 0x41 => whenZero [f.dord, f.lay] ((ChanOrder.ofCode? f.sord).map .rgb32toi420)
  | _ => none

/-- The decoder: the legal command a word is, or `none`, an illegal command (R93-R95, R142). -/
def decode (w : Word) : Option Instr :=
  if (CmdFields.ofWord w).reserved = 0 then (CmdFields.ofWord w).instr? else none

/-! ## Encoding -/

/-- The field values of a command (R93, R96): a field that is not free is 0. -/
def Instr.fields : Instr → CmdFields
  | .pcopy => ⟨0x01, 0, 0, 0, 0⟩
  | .pcopy2 => ⟨0x02, 0, 0, 0, 0⟩
  | .pmirror => ⟨0x03, 0, 0, 0, 0⟩
  | .pset => ⟨0x04, 0, 0, 0, 0⟩
  | .psplit2 => ⟨0x05, 0, 0, 0, 0⟩
  | .i420copy => ⟨0x10, 0, 0, 0, 0⟩
  | .i420mirror => ⟨0x11, 0, 0, 0, 0⟩
  | .i420rect => ⟨0x12, 0, 0, 0, 0⟩
  | .i422toi420 => ⟨0x13, 0, 0, 0, 0⟩
  | .nv420toi420 lay => ⟨0x14, 0, 0, lay.code, 0⟩
  | .p422toi420 sord => ⟨0x15, sord.code, 0, 0, 0⟩
  | .i420torgb32 dord => ⟨0x20, 0, dord.code, 0, 0⟩
  | .i422torgb32 dord => ⟨0x21, 0, dord.code, 0, 0⟩
  | .i444torgb32 dord => ⟨0x22, 0, dord.code, 0, 0⟩
  | .i400torgb32 dord => ⟨0x23, 0, dord.code, 0, 0⟩
  | .rgb32torgb565 sord => ⟨0x30, sord.code, 0, 0, 0⟩
  | .rgb32toargb1555 sord => ⟨0x31, sord.code, 0, 0, 0⟩
  | .rgb32toargb4444 sord => ⟨0x32, sord.code, 0, 0, 0⟩
  | .rgb32torgb24 sord dord => ⟨0x38, sord.code, dord.code, 0, 0⟩
  | .rgb24torgb32 sord dord => ⟨0x39, sord.code, dord.code, 0, 0⟩
  | .rgb32reorder sord dord => ⟨0x3A, sord.code, dord.code, 0, 0⟩
  | .rgb32toi400 sord => ⟨0x40, sord.code, 0, 0, 0⟩
  | .rgb32toi420 sord => ⟨0x41, sord.code, 0, 0, 0⟩

/-- The word that holds a set of fields (R90). -/
def CmdFields.toWord (f : CmdFields) : Word :=
  BitVec.ofNat 32 (f.op + f.sord * 2 ^ 8 + f.dord * 2 ^ 10 + f.lay * 2 ^ 12 + f.reserved * 2 ^ 13)

/-- The command word of a command. -/
def encode (i : Instr) : Word := i.fields.toWord

/-! ## The opcode map, as R93 prints it -/

/-- One row of the opcode map: `(CMD AND mask) = match`. -/
structure OpcodeRow where
  mnemonic : Mnemonic
  bits     : Word
  mask     : Word
  deriving DecidableEq, Repr

/-- A word matches a row (R93). -/
def OpcodeRow.matches (row : OpcodeRow) (w : Word) : Bool := w &&& row.mask == row.bits

/-- The rows of R93. -/
def opcodeMap : List OpcodeRow :=
  [ ⟨.PCOPY, 0x00000001, 0xFFFFFFFF⟩,
    ⟨.PCOPY2, 0x00000002, 0xFFFFFFFF⟩,
    ⟨.PMIRROR, 0x00000003, 0xFFFFFFFF⟩,
    ⟨.PSET, 0x00000004, 0xFFFFFFFF⟩,
    ⟨.PSPLIT2, 0x00000005, 0xFFFFFFFF⟩,
    ⟨.I420COPY, 0x00000010, 0xFFFFFFFF⟩,
    ⟨.I420MIRROR, 0x00000011, 0xFFFFFFFF⟩,
    ⟨.I420RECT, 0x00000012, 0xFFFFFFFF⟩,
    ⟨.I422TOI420, 0x00000013, 0xFFFFFFFF⟩,
    ⟨.NV420TOI420, 0x00000014, 0xFFFFEFFF⟩,
    ⟨.P422TOI420, 0x00000015, 0xFFFFFEFF⟩,
    ⟨.I420TORGB32, 0x00000020, 0xFFFFF3FF⟩ ] ++
  [ ⟨.I422TORGB32, 0x00000021, 0xFFFFF3FF⟩,
    ⟨.I444TORGB32, 0x00000022, 0xFFFFF3FF⟩,
    ⟨.I400TORGB32, 0x00000023, 0xFFFFF3FF⟩,
    ⟨.RGB32TORGB565, 0x00000030, 0xFFFFFCFF⟩,
    ⟨.RGB32TOARGB1555, 0x00000031, 0xFFFFFCFF⟩,
    ⟨.RGB32TOARGB4444, 0x00000032, 0xFFFFFCFF⟩,
    ⟨.RGB32TORGB24, 0x00000038, 0xFFFFF8FF⟩,
    ⟨.RGB24TORGB32, 0x00000039, 0xFFFFF2FF⟩,
    ⟨.RGB32REORDER, 0x0000003A, 0xFFFFF0FF⟩,
    ⟨.RGB32TOI400, 0x00000040, 0xFFFFFCFF⟩,
    ⟨.RGB32TOI420, 0x00000041, 0xFFFFFCFF⟩ ]

/-- The mnemonic of a command. -/
def Instr.mnemonic : Instr → Mnemonic
  | .pcopy => .PCOPY
  | .pcopy2 => .PCOPY2
  | .pmirror => .PMIRROR
  | .pset => .PSET
  | .psplit2 => .PSPLIT2
  | .i420copy => .I420COPY
  | .i420mirror => .I420MIRROR
  | .i420rect => .I420RECT
  | .i422toi420 => .I422TOI420
  | .nv420toi420 _ => .NV420TOI420
  | .p422toi420 _ => .P422TOI420
  | .i420torgb32 _ => .I420TORGB32
  | .i422torgb32 _ => .I422TORGB32
  | .i444torgb32 _ => .I444TORGB32
  | .i400torgb32 _ => .I400TORGB32
  | .rgb32torgb565 _ => .RGB32TORGB565
  | .rgb32toargb1555 _ => .RGB32TOARGB1555
  | .rgb32toargb4444 _ => .RGB32TOARGB4444
  | .rgb32torgb24 _ _ => .RGB32TORGB24
  | .rgb24torgb32 _ _ => .RGB24TORGB32
  | .rgb32reorder _ _ => .RGB32REORDER
  | .rgb32toi400 _ => .RGB32TOI400
  | .rgb32toi420 _ => .RGB32TOI420

/-! ## The host's interface to the decoder -/

/-- The instruction `decode` reads from an opcode-table word of `nbits` bits, the bits above `nbits` being 0. -/
def decodeTableWord (nbits w : Nat) : Option Instr := decode (BitVec.ofNat 32 (w % 2 ^ nbits))

/-! ## The assembler (R98, R100) -/

/-- The code a written suffix stands for (R91, R98). -/
def Suffix.code : Suffix → Nat
  | .order o => o.code
  | .rgb24 l => l.code
  | .yuv422 o => o.code
  | .biplanar l => l.code

/-- A mnemonic whose suffixes are all omitted, each of which then means code 0 (R98). -/
def Mnemonic.defaultSuffixes (m : Mnemonic) : List Suffix :=
  m.freeFields.map fun
    | .order => .order .argb
    | .rgb24 => .rgb24 .rgb24
    | .yuv422 => .yuv422 .yuyv
    | .biplanar => .biplanar .nv12

/-- The command of a mnemonic with all its suffixes written out (R98). -/
def assembleFull : Mnemonic → List Suffix → Option Instr
  | .PCOPY, [] => some .pcopy
  | .PCOPY2, [] => some .pcopy2
  | .PMIRROR, [] => some .pmirror
  | .PSET, [] => some .pset
  | .PSPLIT2, [] => some .psplit2
  | .I420COPY, [] => some .i420copy
  | .I420MIRROR, [] => some .i420mirror
  | .I420RECT, [] => some .i420rect
  | .I422TOI420, [] => some .i422toi420
  | .NV420TOI420, [.biplanar l] => some (.nv420toi420 l)
  | .P422TOI420, [.yuv422 o] => some (.p422toi420 o)
  | .I420TORGB32, [.order o] => some (.i420torgb32 o)
  | .I422TORGB32, [.order o] => some (.i422torgb32 o)
  | .I444TORGB32, [.order o] => some (.i444torgb32 o)
  | .I400TORGB32, [.order o] => some (.i400torgb32 o)
  | .RGB32TORGB565, [.order o] => some (.rgb32torgb565 o)
  | .RGB32TOARGB1555, [.order o] => some (.rgb32toargb1555 o)
  | .RGB32TOARGB4444, [.order o] => some (.rgb32toargb4444 o)
  | .RGB32TORGB24, [.order o, .rgb24 l] => some (.rgb32torgb24 o l)
  | .RGB24TORGB32, [.rgb24 l, .order o] => some (.rgb24torgb32 l o)
  | .RGB32REORDER, [.order s, .order d] => some (.rgb32reorder s d)
  | .RGB32TOI400, [.order o] => some (.rgb32toi400 o)
  | .RGB32TOI420, [.order o] => some (.rgb32toi420 o)
  | _, _ => none

/-- The command an assembler term stands for, `none` when the term is ill-formed (R98). -/
def AsmCommand.assemble (c : AsmCommand) : Option Instr :=
  if c.suffixes.isEmpty then assembleFull c.mnemonic c.mnemonic.defaultSuffixes
  else assembleFull c.mnemonic c.suffixes

/-- The expansion of each pseudo-command (R100). -/
def Pseudo.expand : Pseudo → AsmCommand
  | .NV12TOI420 => ⟨.NV420TOI420, [.biplanar .nv12]⟩
  | .M420TOI420 => ⟨.NV420TOI420, [.biplanar .m420]⟩
  | .YUY2TOI420 => ⟨.P422TOI420, [.yuv422 .yuyv]⟩
  | .UYVYTOI420 => ⟨.P422TOI420, [.yuv422 .uyvy]⟩
  | .I420TOARGB => ⟨.I420TORGB32, [.order .argb]⟩
  | .I420TOBGRA => ⟨.I420TORGB32, [.order .bgra]⟩
  | .I420TOABGR => ⟨.I420TORGB32, [.order .abgr]⟩
  | .I420TORGBA => ⟨.I420TORGB32, [.order .rgba]⟩
  | .I422TOARGB => ⟨.I422TORGB32, [.order .argb]⟩
  | .I444TOARGB => ⟨.I444TORGB32, [.order .argb]⟩
  | .I400TOARGB => ⟨.I400TORGB32, [.order .argb]⟩
  | .ARGBTORGB565 => ⟨.RGB32TORGB565, [.order .argb]⟩
  | .ARGBTOARGB1555 => ⟨.RGB32TOARGB1555, [.order .argb]⟩
  | .ARGBTOARGB4444 => ⟨.RGB32TOARGB4444, [.order .argb]⟩
  | .ARGBTORGB24 => ⟨.RGB32TORGB24, [.order .argb, .rgb24 .rgb24]⟩
  | .ARGBTORAW => ⟨.RGB32TORGB24, [.order .argb, .rgb24 .raw]⟩
  | .RGB24TOARGB => ⟨.RGB24TORGB32, [.rgb24 .rgb24, .order .argb]⟩
  | .RAWTOARGB => ⟨.RGB24TORGB32, [.rgb24 .raw, .order .argb]⟩
  | .ARGBTOBGRA => ⟨.RGB32REORDER, [.order .argb, .order .bgra]⟩
  | .BGRATOARGB => ⟨.RGB32REORDER, [.order .bgra, .order .argb]⟩
  | .ARGBTOABGR => ⟨.RGB32REORDER, [.order .argb, .order .abgr]⟩
  | .ABGRTOARGB => ⟨.RGB32REORDER, [.order .abgr, .order .argb]⟩
  | .ARGBTOI400 => ⟨.RGB32TOI400, [.order .argb]⟩
  | .ARGBTOI420 => ⟨.RGB32TOI420, [.order .argb]⟩
  | .BGRATOI420 => ⟨.RGB32TOI420, [.order .bgra]⟩
  | .ABGRTOI420 => ⟨.RGB32TOI420, [.order .abgr]⟩

/-- The command word of a pseudo-command (R100). -/
def Pseudo.word (p : Pseudo) : Option Word := p.expand.assemble.map encode

end Sys2Proof
end

