-- ==== Sys2Proof/Machine/PlaneRules.lean ====
section
/-! DEFINITION. The rules of the plane operations (spec/42_plane_ops.md R170-R174): for each, its required planes, its
planes' sizes and the value of each destination byte. -/

namespace Sys2Proof.Machine

/-- R170: `DST0[r][i] <- SRC0[r][i]`. In-place capable (R69). -/
def pcopyRule : Operation where
  req := [.src0, .dst0]
  job _ L g :=
    { srcs := [srcPlane L g .src0 g.h g.w]
      dsts := [dstPlane L .dst0 g.h g.w]
      value := fun src _ r i => src 0 r i
      inPlace := true }

/-- R171: as PCOPY, from a plane of two alternating strides. -/
def pcopy2Rule : Operation where
  req := [.src0, .dst0]
  job _ L g :=
    { srcs := [srcPlaneTwoStride L g g.h g.w]
      dsts := [dstPlane L .dst0 g.h g.w]
      value := fun src _ r i => src 0 r i
      inPlace := false }

/-- R172: `DST0[r][i] <- SRC0[r][w-1-i]`. -/
def pmirrorRule : Operation where
  req := [.src0, .dst0]
  job _ L g :=
    { srcs := [srcPlane L g .src0 g.h g.w]
      dsts := [dstPlane L .dst0 g.h g.w]
      value := fun src _ r i => src 0 r (g.w - 1 - i)
      inPlace := false }

/-- R173: `DST0[r][i] <- FILL_Y`. -/
def psetRule : Operation where
  req := [.dst0]
  job _ L g :=
    { srcs := []
      dsts := [fillPlane L g .dst0 g.h g.w]
      value := fun _ _ _ _ => L.fillY
      inPlace := false }

/-- R174: `DST0[r][i] <- SRC0[r][2i]`, `DST1[r][i] <- SRC0[r][2i+1]`. -/
def psplit2Rule : Operation where
  req := [.src0, .dst0, .dst1]
  job _ L g :=
    { srcs := [srcPlane L g .src0 g.h (2 * g.w)]
      dsts := [dstPlane L .dst0 g.h g.w, dstPlane L .dst1 g.h g.w]
      value := fun src p r i => src 0 r (2 * i + p)
      inPlace := false }

end Sys2Proof.Machine
end

