-- ==== Sys2Proof/Machine/ColorMath.lean ====
section
/-! DEFINITION. ColorMath and the pixel layouts (spec/40_colormath.md R110-R130): pure functions on samples and pixels.
Sums are exact integers and every result is narrowed once, at the end (R7, R131). -/

namespace Sys2Proof.Machine
open Sys2Proof.Config

/-! ## Arithmetic primitives (R9) -/

/-- `asr(v, n) = floor(v / 2^n)` (R9). -/
def asr (v : Int) (n : Nat) : Int := v / 2 ^ n

/-- A u8 from an integer that is in [0, 255] (R131: "No result wraps"). -/
def u8 (v : Int) : Byte := BitVec.ofInt 8 v

/-- `sat8(v) = min(255, max(0, v))` (R9). -/
def sat8 (v : Int) : Byte := u8 (min 255 (max 0 v))

/-- `avg2(a, b) = asr(a + b + 1, 1)` (R9, R118). -/
def avg2 (a b : Byte) : Byte := u8 (asr (a.toNat + b.toNat + 1) 1)

/-- `avg4`, the truncating 2x2 mean (R119). -/
def avg4 (p00 p01 p10 p11 : Byte) : Byte := u8 (asr (p00.toNat + p01.toNat + p10.toNat + p11.toNat) 2)

/-! ## Pixels -/

/-- A pixel's channels in the fixed lane order (R11). -/
structure Pixel where
  b : Byte
  g : Byte
  r : Byte
  a : Byte
  deriving DecidableEq, Repr

/-- The name of a channel. -/
inductive Lane where
  | b | g | r | a
  deriving DecidableEq, Repr

/-- A pixel's channel by name. -/
def Pixel.lane (p : Pixel) : Lane → Byte
  | .b => p.b
  | .g => p.g
  | .r => p.r
  | .a => p.a

/-! ## Inverse transform (R110-R113) -/

/-- One lane of `YUV2RGB`: `sat8(asr(s, 6))` of the exact sum of three table entries (R110). -/
def yuvLane (y u v : BitVec 16) : Byte := sat8 (asr (y.toInt + u.toInt + v.toInt) 6)

/-- `YUV2RGB(y, u, v)` (R110). -/
def yuv2rgb (t : Tables) (y u v : Byte) : Pixel :=
  let ty := tableRow t.ytab y
  let tu := tableRow t.utab u
  let tv := tableRow t.vtab v
  { b := yuvLane ty.b tu.b tv.b
    g := yuvLane ty.g tu.g tv.g
    r := yuvLane ty.r tu.r tv.r
    a := yuvLane ty.a tu.a tv.a }

/-! ## Forward transform (R114-R117) -/

/-- `RGB2Y(r, g, b)` (R114). -/
def rgb2y (r g b : Byte) : Byte :=
  u8 (asr (66 * r.toNat + 129 * g.toNat + 25 * b.toNat + 128) 8 + 16)

/-- `RGB2U(r, g, b)` (R115). -/
def rgb2u (r g b : Byte) : Byte :=
  u8 (asr (-38 * r.toNat - 74 * g.toNat + 112 * b.toNat + 128) 8 + 128)

/-- `RGB2V(r, g, b)` (R116). -/
def rgb2v (r g b : Byte) : Byte :=
  u8 (asr (112 * r.toNat - 94 * g.toNat - 18 * b.toNat + 128) 8 + 128)

/-! ## Narrow packed RGB (R120-R122) -/

/-- `PACK565(B, G, R)`: `{R[7:3], G[7:2], B[7:3]}` (R120). -/
def pack565 (p : Pixel) : BitVec 16 :=
  p.r.extractLsb' 3 5 ++ p.g.extractLsb' 2 6 ++ p.b.extractLsb' 3 5

/-- `PACK1555(B, G, R, A)`: `{A[7], R[7:3], G[7:3], B[7:3]}` (R121). -/
def pack1555 (p : Pixel) : BitVec 16 :=
  p.a.extractLsb' 7 1 ++ p.r.extractLsb' 3 5 ++ p.g.extractLsb' 3 5 ++ p.b.extractLsb' 3 5

/-- `PACK4444(B, G, R, A)`: `{A[7:4], R[7:4], G[7:4], B[7:4]}` (R121). -/
def pack4444 (p : Pixel) : BitVec 16 :=
  p.a.extractLsb' 4 4 ++ p.r.extractLsb' 4 4 ++ p.g.extractLsb' 4 4 ++ p.b.extractLsb' 4 4

/-- Byte `i` of a u16 pixel in memory: v[7:0] first, then v[15:8] (R122). -/
def pixel16Byte (v : BitVec 16) (i : Nat) : Byte := v.extractLsb' (8 * i) 8

/-! ## Byte layouts (R123-R129) -/

/-- `off_o(lane)`: the byte offset of a channel in a 32-bit pixel (R124-R127). -/
def ChanOrder.offset : ChanOrder → Lane → Nat
  -- ARGB: memory bytes B, G, R, A
  | .argb, .b => 0
  | .argb, .g => 1
  | .argb, .r => 2
  | .argb, .a => 3
  -- BGRA: memory bytes A, R, G, B
  | .bgra, .a => 0
  | .bgra, .r => 1
  | .bgra, .g => 2
  | .bgra, .b => 3
  -- ABGR: memory bytes R, G, B, A
  | .abgr, .r => 0
  | .abgr, .g => 1
  | .abgr, .b => 2
  | .abgr, .a => 3
  -- RGBA: memory bytes A, B, G, R
  | .rgba, .a => 0
  | .rgba, .b => 1
  | .rgba, .g => 2
  | .rgba, .r => 3

/-- The channel at a byte offset of a 32-bit pixel: the one whose offset it is (R123). -/
def ChanOrder.laneAt (o : ChanOrder) (j : Nat) : Lane :=
  if ChanOrder.offset o .b = j then .b
  else if ChanOrder.offset o .g = j then .g
  else if ChanOrder.offset o .r = j then .r
  else .a

/-- `off_l(lane)`: the byte offset of a channel in a 24-bit pixel, which has no alpha (R128). -/
def Rgb24Layout.offset : Rgb24Layout → Lane → Option Nat
  | .rgb24, .b => some 0
  | .rgb24, .g => some 1
  | .rgb24, .r => some 2
  | .raw, .r => some 0
  | .raw, .g => some 1
  | .raw, .b => some 2
  | _, .a => none

/-- The channel at a byte offset of a 24-bit pixel (R128). -/
def Rgb24Layout.laneAt (l : Rgb24Layout) (j : Nat) : Lane :=
  if Rgb24Layout.offset l .b = some j then .b
  else if Rgb24Layout.offset l .g = some j then .g
  else .r

/-- `yoff`: the byte offset of luma sample `k` (0 or 1) of a packed 4:2:2 macropixel (R129). -/
def Yuv422Order.yoff : Yuv422Order → Nat → Nat
  | .yuyv, k => 2 * k
  | .uyvy, k => 2 * k + 1

/-- `uoff` (R129). -/
def Yuv422Order.uoff : Yuv422Order → Nat
  | .yuyv => 1
  | .uyvy => 0

/-- `voff` (R129). -/
def Yuv422Order.voff : Yuv422Order → Nat
  | .yuyv => 3
  | .uyvy => 2

/-- `ReadPix32`: a pixel from the bytes of its row, `byte j` being the pixel's byte at offset `j` (R123). -/
def readPix32 (o : ChanOrder) (byte : Nat → Byte) : Pixel where
  b := byte (ChanOrder.offset o .b)
  g := byte (ChanOrder.offset o .g)
  r := byte (ChanOrder.offset o .r)
  a := byte (ChanOrder.offset o .a)

/-- `WritePix32`: the byte a pixel puts at offset `j` (R123). -/
def writePix32 (o : ChanOrder) (p : Pixel) (j : Nat) : Byte := p.lane (ChanOrder.laneAt o j)

/-- The byte offset of a colour channel in a 24-bit pixel. -/
def Rgb24Layout.colorOffset (l : Rgb24Layout) (c : Lane) : Nat := (Rgb24Layout.offset l c).getD 0

/-- `ReadPix24` with the alpha fill of R130: a 24-bit pixel's missing alpha is 255 (R128, R130). -/
def readPix24 (l : Rgb24Layout) (byte : Nat → Byte) : Pixel where
  b := byte (Rgb24Layout.colorOffset l .b)
  g := byte (Rgb24Layout.colorOffset l .g)
  r := byte (Rgb24Layout.colorOffset l .r)
  a := 255

/-- `WritePix24`: the byte a pixel puts at offset `j`; alpha is dropped (R128, R234). -/
def writePix24 (l : Rgb24Layout) (p : Pixel) (j : Nat) : Byte := p.lane (Rgb24Layout.laneAt l j)

end Sys2Proof.Machine
end

