-- ==== Sys2Proof/Machine/RgbPackRules.lean ====
section
/-! DEFINITION. The rules of the packed RGB repacking commands (spec/45_rgb_pack.md R230-R236). -/

namespace Sys2Proof.Machine

/-- `pix(r, x)`: pixel `x` of row `r` of an RGB32 SRC0 in order SORD (spec/45_rgb_pack.md, R123). -/
def srcPixel (sord : ChanOrder) (src : SourceBytes) (r x : Nat) : Pixel :=
  readPix32 sord fun j => src 0 r (4 * x + j)

/-- R231: RGB565 by truncation, low byte first; the source's alpha is read and discarded (R230). -/
def rgb32torgb565Rule (sord : ChanOrder) : Operation where
  req := [.src0, .dst0]
  job _ L g :=
    { srcs := [srcPlane L g .src0 g.h (4 * g.w)]
      dsts := [dstPlane L .dst0 g.h (2 * g.w)]
      value := fun src _ r i => pixel16Byte (pack565 (srcPixel sord src r (i / 2))) (i % 2)
      inPlace := false }

/-- R232: ARGB1555, the alpha bit being A[7]. -/
def rgb32toargb1555Rule (sord : ChanOrder) : Operation where
  req := [.src0, .dst0]
  job _ L g :=
    { srcs := [srcPlane L g .src0 g.h (4 * g.w)]
      dsts := [dstPlane L .dst0 g.h (2 * g.w)]
      value := fun src _ r i => pixel16Byte (pack1555 (srcPixel sord src r (i / 2))) (i % 2)
      inPlace := false }

/-- R233: ARGB4444, each field the top nibble of its channel. -/
def rgb32toargb4444Rule (sord : ChanOrder) : Operation where
  req := [.src0, .dst0]
  job _ L g :=
    { srcs := [srcPlane L g .src0 g.h (4 * g.w)]
      dsts := [dstPlane L .dst0 g.h (2 * g.w)]
      value := fun src _ r i => pixel16Byte (pack4444 (srcPixel sord src r (i / 2))) (i % 2)
      inPlace := false }

/-- R234: 24-bit pixels, alpha dropped. -/
def rgb32torgb24Rule (sord : ChanOrder) (dord : Rgb24Layout) : Operation where
  req := [.src0, .dst0]
  job _ L g :=
    { srcs := [srcPlane L g .src0 g.h (4 * g.w)]
      dsts := [dstPlane L .dst0 g.h (3 * g.w)]
      value := fun src _ r i => writePix24 dord (srcPixel sord src r (i / 3)) (i % 3)
      inPlace := false }

/-- R235: 24-bit pixels widened, alpha 255 (R130). -/
def rgb24torgb32Rule (sord : Rgb24Layout) (dord : ChanOrder) : Operation where
  req := [.src0, .dst0]
  job _ L g :=
    { srcs := [srcPlane L g .src0 g.h (3 * g.w)]
      dsts := [dstPlane L .dst0 g.h (4 * g.w)]
      value := fun src _ r i =>
        writePix32 dord (readPix24 sord fun j => src 0 r (3 * (i / 4) + j)) (i % 4)
      inPlace := false }

/-- R236: the channels reordered. In-place capable (R69). -/
def rgb32reorderRule (sord dord : ChanOrder) : Operation where
  req := [.src0, .dst0]
  job _ L g :=
    { srcs := [srcPlane L g .src0 g.h (4 * g.w)]
      dsts := [dstPlane L .dst0 g.h (4 * g.w)]
      value := fun src _ r i => writePix32 dord (srcPixel sord src r (i / 4)) (i % 4)
      inPlace := true }

end Sys2Proof.Machine
end

