-- ==== Sys2Proof/Machine/YuvPlanarRules.lean ====
section
/-! DEFINITION. The rules of the planar YUV conversions (spec/43_yuv_planar.md R190-R196). Every destination is I420;
destination plane 0 is Y, 1 is U, 2 is V. -/

namespace Sys2Proof.Machine

/-- The planes an I420-to-I420 command requires. -/
def i420Req : List PlaneId := [.src0, .src1, .src2, .dst0, .dst1, .dst2]

/-- R190: each plane copied. -/
def i420copyRule : Operation where
  req := i420Req
  job _ L g :=
    { srcs := i420Src L g
      dsts := i420Dst L g
      value := fun src p r i => src p r i
      inPlace := false }

/-- R191: each plane mirrored over its own width. -/
def i420mirrorRule : Operation where
  req := i420Req
  job _ L g :=
    { srcs := i420Src L g
      dsts := i420Dst L g
      value := fun src p r i => src p r ((if p = 0 then g.w else g.cw) - 1 - i)
      inPlace := false }

/-- R192: Y, U and V filled with FILL_Y, FILL_U and FILL_V. -/
def i420rectRule : Operation where
  req := [.dst0, .dst1, .dst2]
  job _ L g :=
    { srcs := []
      dsts := [fillPlane L g .dst0 g.h g.w, fillPlane L g .dst1 g.ch g.cw, fillPlane L g .dst2 g.ch g.cw]
      value := fun _ p _ _ => if p = 0 then L.fillY else if p = 1 then L.fillU else L.fillV
      inPlace := false }

/-- The two source rows that chroma row `j` averages: 2j and min(2j+1, h-1) (R193, R196, R251). -/
def pairRow (h j : Nat) : Nat := min (2 * j + 1) (h - 1)

/-- R193: luma copied, chroma row j the `avg2` of source chroma rows 2j and min(2j+1, h-1). -/
def i422toi420Rule : Operation where
  req := i420Req
  job _ L g :=
    { srcs := [srcPlane L g .src0 g.h g.w, srcPlane L g .src1 g.h g.cw, srcPlane L g .src2 g.h g.cw]
      dsts := i420Dst L g
      value := fun src p r i =>
        if p = 0 then src 0 r i else avg2 (src p (2 * r) i) (src p (pairRow g.h r) i)
      inPlace := false }

/-- R194: luma copied, U the first and V the second byte of each chroma pair; `Yp` is source plane 0 and `UVp` source
plane 1, which M420 derives from the one buffer of SRC0 (R195), SRC1 being ignored (R143). -/
def nv420toi420Rule (lay : BiplanarLayout) : Operation where
  req := match lay with
    | .nv12 => [.src0, .src1, .dst0, .dst1, .dst2]
    | .m420 => [.src0, .dst0, .dst1, .dst2]
  job _ L g :=
    { srcs := match lay with
        | .nv12 => [srcPlane L g .src0 g.h g.w, srcPlane L g .src1 g.ch (2 * g.cw)]
        | .m420 => [srcPlaneM420Y L g g.h g.w, srcPlaneM420UV L g g.ch (2 * g.cw)]
      dsts := i420Dst L g
      value := fun src p r i =>
        if p = 0 then src 0 r i else if p = 1 then src 1 r (2 * i) else src 1 r (2 * i + 1)
      inPlace := false }

/-- R196: luma from the macropixels, chroma row j the `avg2` of source rows 2j and min(2j+1, h-1). -/
def p422toi420Rule (sord : Yuv422Order) : Operation where
  req := [.src0, .dst0, .dst1, .dst2]
  job _ L g :=
    { srcs := [srcPlane L g .src0 g.h (4 * g.cw)]
      dsts := i420Dst L g
      value := fun src p r i =>
        if p = 0 then src 0 r (4 * (i / 2) + Yuv422Order.yoff sord (i % 2))
        else
          let off := if p = 1 then Yuv422Order.uoff sord else Yuv422Order.voff sord
          avg2 (src 0 (2 * r) (4 * i + off)) (src 0 (pairRow g.h r) (4 * i + off))
      inPlace := false }

end Sys2Proof.Machine
end

