-- ==== Sys2Proof/Machine/RgbToYuvRules.lean ====
section
/-! DEFINITION. The rules of the packed RGB to YUV commands (spec/46_rgb_to_yuv.md R250, R251). -/

namespace Sys2Proof.Machine

/-- `RGB2Y` of a pixel; its alpha is ignored (R250). -/
def pixelY (p : Pixel) : Byte := rgb2y p.r p.g p.b

/-- R250: luma only. -/
def rgb32toi400Rule (sord : ChanOrder) : Operation where
  req := [.src0, .dst0]
  job _ L g :=
    { srcs := [srcPlane L g .src0 g.h (4 * g.w)]
      dsts := [dstPlane L .dst0 g.h g.w]
      value := fun src _ r i => pixelY (srcPixel sord src r i)
      inPlace := false }

/-- The channel-wise average of a 2x2 block (R119, R251); alpha plays no part. -/
def blockAverage (p00 p01 p10 p11 : Pixel) : Pixel where
  b := avg4 p00.b p01.b p10.b p11.b
  g := avg4 p00.g p01.g p10.g p11.g
  r := avg4 p00.r p01.r p10.r p11.r
  a := 0

/-- The averaged pixel that chroma sample (j, i) is made from: rows 2j and min(2j+1, h-1), columns 2i and
min(2i+1, w-1) (R251). -/
def chromaPixel (pix : Nat → Nat → Pixel) (w h j i : Nat) : Pixel :=
  blockAverage (pix (2 * j) (2 * i)) (pix (2 * j) (pairRow w i))
    (pix (pairRow h j) (2 * i)) (pix (pairRow h j) (pairRow w i))

/-- R251: luma per pixel; chroma from the averaged 2x2 block, the average first and the transform second. -/
def rgb32toi420Rule (sord : ChanOrder) : Operation where
  req := [.src0, .dst0, .dst1, .dst2]
  job _ L g :=
    { srcs := [srcPlane L g .src0 g.h (4 * g.w)]
      dsts := i420Dst L g
      value := fun src p r i =>
        if p = 0 then pixelY (srcPixel sord src r i)
        else
          let q := chromaPixel (srcPixel sord src) g.w g.h r i
          if p = 1 then rgb2u q.r q.g q.b else rgb2v q.r q.g q.b
      inPlace := false }

end Sys2Proof.Machine
end

