-- ==== Sys2Proof/Machine/YuvToRgbRules.lean ====
section
/-! DEFINITION. The rules of the YUV to RGB32 conversions (spec/44_yuv_to_rgb.md R210-R214). Byte `i` of a destination
row is byte `i mod 4` of pixel `i / 4`. -/

namespace Sys2Proof.Machine

/-- The planes a three-plane YUV source and an RGB32 destination require. -/
def yuvToRgbReq : List PlaneId := [.src0, .src1, .src2, .dst0]

/-- R210: byte `i` of a destination row, `pixel x` being the colour of pixel `x` of that row. -/
def rgb32RowByte (dord : ChanOrder) (pixel : Nat → Pixel) (i : Nat) : Byte :=
  writePix32 dord (pixel (i / 4)) (i % 4)

/-- R211: chroma row r>>1 and column x>>1 (R151, R152). -/
def i420torgb32Rule (dord : ChanOrder) : Operation where
  req := yuvToRgbReq
  job t L g :=
    { srcs := i420Src L g
      dsts := [dstPlane L .dst0 g.h (4 * g.w)]
      value := fun src _ r i =>
        rgb32RowByte dord (fun x => yuv2rgb t (src 0 r x) (src 1 (r / 2) (x / 2)) (src 2 (r / 2) (x / 2))) i
      inPlace := false }

/-- R212: chroma row r and column x>>1. -/
def i422torgb32Rule (dord : ChanOrder) : Operation where
  req := yuvToRgbReq
  job t L g :=
    { srcs := [srcPlane L g .src0 g.h g.w, srcPlane L g .src1 g.h g.cw, srcPlane L g .src2 g.h g.cw]
      dsts := [dstPlane L .dst0 g.h (4 * g.w)]
      value := fun src _ r i =>
        rgb32RowByte dord (fun x => yuv2rgb t (src 0 r x) (src 1 r (x / 2)) (src 2 r (x / 2))) i
      inPlace := false }

/-- R213: chroma row r and column x. -/
def i444torgb32Rule (dord : ChanOrder) : Operation where
  req := yuvToRgbReq
  job t L g :=
    { srcs := [srcPlane L g .src0 g.h g.w, srcPlane L g .src1 g.h g.w, srcPlane L g .src2 g.h g.w]
      dsts := [dstPlane L .dst0 g.h (4 * g.w)]
      value := fun src _ r i =>
        rgb32RowByte dord (fun x => yuv2rgb t (src 0 r x) (src 1 r x) (src 2 r x)) i
      inPlace := false }

/-- R214: neutral chroma, U = V = 128. -/
def i400torgb32Rule (dord : ChanOrder) : Operation where
  req := [.src0, .dst0]
  job t L g :=
    { srcs := [srcPlane L g .src0 g.h g.w]
      dsts := [dstPlane L .dst0 g.h (4 * g.w)]
      value := fun src _ r i => rgb32RowByte dord (fun x => yuv2rgb t (src 0 r x) 128 128) i
      inPlace := false }

end Sys2Proof.Machine
end

