-- ==== Sys2Proof/Machine/Rules.lean ====
section
/-! DEFINITION. The rule of each command, and the job of a command in flight (spec/41_command_model.md R142-R153). A
command's footprint matters to others while it runs (R72, R75, R302), so it is known apart from executing it. -/

namespace Sys2Proof.Machine
open Sys2Proof.Config

/-- The rule of a command (R93, column "rule"). -/
def ruleOf : Instr → Operation
  | .pcopy => pcopyRule
  | .pcopy2 => pcopy2Rule
  | .pmirror => pmirrorRule
  | .pset => psetRule
  | .psplit2 => psplit2Rule
  | .i420copy => i420copyRule
  | .i420mirror => i420mirrorRule
  | .i420rect => i420rectRule
  | .i422toi420 => i422toi420Rule
  | .nv420toi420 lay => nv420toi420Rule lay
  | .p422toi420 sord => p422toi420Rule sord
  | .i420torgb32 dord => i420torgb32Rule dord
  | .i422torgb32 dord => i422torgb32Rule dord
  | .i444torgb32 dord => i444torgb32Rule dord
  | .i400torgb32 dord => i400torgb32Rule dord
  | .rgb32torgb565 sord => rgb32torgb565Rule sord
  | .rgb32toargb1555 sord => rgb32toargb1555Rule sord
  | .rgb32toargb4444 sord => rgb32toargb4444Rule sord
  | .rgb32torgb24 sord dord => rgb32torgb24Rule sord dord
  | .rgb24torgb32 sord dord => rgb24torgb32Rule sord dord
  | .rgb32reorder sord dord => rgb32reorderRule sord dord
  | .rgb32toi400 sord => rgb32toi400Rule sord
  | .rgb32toi420 sord => rgb32toi420Rule sord

/-- Validation (R144, R145): no required plane is null and the size is legal. -/
def Operation.valid (op : Operation) (L : CmdRegs) : Bool := !L.nullPlane op.req && L.sizeOk

/-- The job of a latched copy, when the command is legal and valid; otherwise it has no footprint (R141, R273). -/
def jobOf (t : Tables) (L : CmdRegs) : Option Job :=
  match decode L.cmd with
  | none => none
  | some i => if (ruleOf i).valid L then some ((ruleOf i).job t L L.geometry) else none

end Sys2Proof.Machine
end

