-- ==== Sys2Proof/Machine/Ops.lean ====
section
/-! DEFINITION. The operations over the state that every command shares: the instances and the address map, reading a
source byte, performing a job, completing, and `runOperation`, the whole of a command after decode
(spec/41_command_model.md R143-R154).

THE EXCEPTION OF THIS HARDWARE. The block takes no traps, saves no state and has no return (R274, R279): a command that
fails "completes with a status code in RESULT and flags in STATUS". That one shared operation is `State.complete`, and
`runOperation` is where its causes are ordered (R273). -/

namespace Sys2Proof.Machine
open Sys2Proof.Config

/-! ## Instances (R20, R285) -/

/-- All instances, instance 0 first. -/
def State.instances (s : State) : List CscInstance := s.before ++ s.inst :: s.after

/-- `N_INSTANCES` (R6). -/
def State.nInstances (s : State) : Nat := s.before.length + 1 + s.after.length

/-- The number of the current instance. -/
def State.current (s : State) : Nat := s.before.length

/-- The same machine with instance `k` current; unchanged when there is no instance `k`. -/
def State.focus (s : State) (k : Nat) : State :=
  match s.instances.drop k with
  | x :: rest => { s with before := s.instances.take k, inst := x, after := rest }
  | [] => s

/-! ## The address map (R60, R80) -/

/-- The address of instance `k`'s register window (R20). -/
def State.windowBase (s : State) (k : Nat) : Word := s.plat.cscBase + BitVec.ofNat 32 (k * 0x100)

/-- The instance whose register window an address is in (R20, R60). -/
def State.windowOf (s : State) (a : Word) : Option Nat :=
  (List.range s.nInstances).find? fun k => (a - s.windowBase k).toNat < 0x100

/-- The address is in a region. -/
def regionHas (x : Region) (a : Word) : Bool := x.base ≤ a.toNat && a.toNat < x.base + x.size

/-- `Mapped(a)`: ordinary memory, and never a register window (R6, R80). -/
def State.mapped (s : State) (a : Word) : Bool :=
  s.plat.memory.any (fun x => regionHas x a) && (s.windowOf a).isNone

/-! ## The command of the current instance -/

/-- The registers the current instance's command reads: the latched copy `L` (R45). With no command in flight a command
that is executed latches the live registers at that instant, as an accepted START does (assumption 9). -/
def State.command (s : State) : CmdRegs :=
  match s.inst.inFlight with
  | some f => f.regs
  | none => s.inst.regs

/-- The current instance's command has met a host write into its footprint, or another instance's command over it
(R72, R75). -/
def State.tainted (s : State) : Bool :=
  match s.inst.inFlight with
  | some f => f.tainted
  | none => false

/-- The job of an instance's command in flight, when it has a footprint. -/
def CscInstance.job? (t : Tables) (x : CscInstance) : Option Job := x.inFlight.bind fun f => jobOf t f.regs

/-- An instance whose command in flight conflicts with `j` loses the value of its destination bytes (R75). -/
def CscInstance.taintedBy (t : Tables) (j : Job) (x : CscInstance) : CscInstance :=
  match x.inFlight, x.job? t with
  | some f, some k => if j.conflictsWith k then { x with inFlight := some { f with tainted := true } } else x
  | _, _ => x

/-- A command in flight on another instance conflicts with `j` (R75). -/
def State.conflict (s : State) (j : Job) : Bool :=
  (s.before ++ s.after).any fun x => match x.job? s.plat.tables with
    | some k => j.conflictsWith k
    | none => false

/-! ## Source bytes -/

/-- The block may not see what the host last stored at an address (R73, COHERENT false; assumption 16). -/
def State.hiddenFromBlock (s : State) (a : Word) : Bool := !s.plat.coherent && s.staleForBlock.contains a

/-- Every source byte is Mapped and visible to the block. -/
def State.sourceIntact (s : State) (j : Job) : Bool :=
  allAddrs j.sf fun a => s.mapped a && !s.hiddenFromBlock a

/-- What the block reads at an address: `M0` (R70), or a free byte where the byte is not Mapped (the rule then has no
value to give, R276) or not visible (I24). -/
def State.blockRead (s : State) (a : Word) : Byte :=
  if s.mapped a && !s.hiddenFromBlock a then s.mem.read a.toNat else freeByte s.freeCount a.toNat

/-- `P[r][i]` for the source planes of a job (R150). `intact` is `s.sourceIntact j`: every byte then is M0's. -/
def State.sourceBytes (s : State) (j : Job) (intact : Bool) : SourceBytes := fun p r i =>
  match j.srcs[p]? with
  | some q => if intact then s.mem.read (q.byteAddr r i).toNat else s.blockRead (q.byteAddr r i)
  | none => 0

/-! ## Performing -/

/-- The destination bytes of a command are unspecified: it is ill-formed in memory (R68), tainted (R72), or conflicts
with a command on another instance (R75). -/
def State.unspecified (s : State) (j : Job) : Bool := !j.memWellFormed || s.tainted || s.conflict j

/-- What a destination byte ends with. `v` is the rule's value, replaced by a free byte where the command's bytes are
`unspec`; a command that is `cut` short, by a bus error (R276) or an abort (R302), leaves each byte with that or with its
old value, by a free choice. -/
def State.finalByte (s : State) (unspec cut : Bool) (a : Word) (v : Byte) : Byte :=
  if cut && !freeChoice s.freeCount a.toNat then s.mem.read a.toNat
  else if unspec then freeByte s.freeCount a.toNat
  else v

/-- The bytes a command stores: its write positions, less the unmapped ones when it is cut short (R276). -/
def State.effects (s : State) (j : Job) (cut : Bool) : List (Word × Byte) :=
  let intact := s.sourceIntact j
  let unspec := s.unspecified j
  let ws := j.stores (s.sourceBytes j intact)
  (if cut then ws.filter (fun w => s.mapped w.1) else ws).map fun w => (w.1, s.finalByte unspec cut w.1 w.2)

/-- The addresses a job's stores make stale for the host, when COHERENT is false (R73, assumption 16). -/
def State.staleAfter (s : State) (ws : List (Word × Byte)) : List Word :=
  if s.plat.coherent then s.staleForHost
  else ws.foldl (fun l w => if l.contains w.1 then l else w.1 :: l) s.staleForHost

/-- A job as one transition of memory (R70, R72, R153), and its effect on commands in flight elsewhere (R75). -/
def State.perform (s : State) (j : Job) (cut : Bool) : State :=
  { s with
    before := s.before.map (CscInstance.taintedBy s.plat.tables j)
    after := s.after.map (CscInstance.taintedBy s.plat.tables j)
    mem := s.mem.writeAll (s.effects j cut)
    staleForHost := s.staleAfter (s.effects j cut)
    freeCount := s.freeCount + 1 }

/-- Completion of the current instance's command (R272). -/
def State.complete (s : State) (c : Word) : State := { s with inst := s.inst.complete c }

/-- Every byte of SF and DF is Mapped (R153). -/
def State.footprintMapped (s : State) (j : Job) : Bool := allAddrs (j.sf ++ j.df) s.mapped

/-- The job an operation does on the current instance's registers. -/
def Operation.jobOn (op : Operation) (s : State) : Job :=
  op.job s.plat.tables s.command s.command.geometry

/-- A command after decode: the pointer check, the size check, the bus error, and the rule, in the order of R273
(R144, R145, R153, R154). -/
def runOperation (op : Operation) (s : State) : Host.Outcome State Fault Refusal :=
  if s.command.nullPlane op.req then .next (s.complete codeInvalidArgument)
  else if !s.command.sizeOk then .next (s.complete codeInvalidArgument)
  else if s.footprintMapped (op.jobOn s) then .next ((s.perform (op.jobOn s) false).complete codeOk)
  else .next ((s.perform (op.jobOn s) true).complete codeBusError)

end Sys2Proof.Machine
end

