-- ==== Sys2Proof/Machine/Registers.lean ====
section
/-! DEFINITION. The register window: its map, what each register reads and what a write to it does
(spec/10_state.md R20-R32), START (spec/41_command_model.md R140) and the soft reset (spec/70_reset_and_hazards.md
R302). -/

namespace Sys2Proof.Machine
open Sys2Proof.Config

/-- The registers of R21. -/
inductive RegName where
  | id | ctrl | status | result | cmd | width | height | fill
  | addr (p : PlaneId)
  | stride (p : PlaneId)
  | src0Stride2
  | reserved
  deriving DecidableEq, Repr

/-- The register at an offset of the window (R21); 0x2C and 0x58-0xFC are reserved (R30). -/
def regAt : Nat → RegName
  | 0x00 => .id
  | 0x04 => .ctrl
  | 0x08 => .status
  | 0x0C => .result
  | 0x10 => .cmd
  | 0x14 => .width
  | 0x18 => .height
  | 0x1C => .fill
  | 0x20 => .addr .src0
  | 0x24 => .stride .src0
  | 0x28 => .src0Stride2
  | 0x30 => .addr .src1
  | 0x34 => .stride .src1
  | 0x38 => .addr .src2
  | 0x3C => .stride .src2
  | 0x40 => .addr .dst0
  | 0x44 => .stride .dst0
  | 0x48 => .addr .dst1
  | 0x4C => .stride .dst1
  | 0x50 => .addr .dst2
  | 0x54 => .stride .dst2
  | _ => .reserved

/-- What a 32-bit read of a register returns (R21-R30). -/
def CscInstance.readReg (x : CscInstance) (plat : Platform) : RegName → Word
  | .id => plat.idValue
  | .ctrl => x.ctrlWord
  | .status => x.statusWord
  | .result => x.result
  | .cmd => x.regs.cmd
  | .width => x.regs.width
  | .height => x.regs.height
  | .fill => x.regs.fill
  | .addr p => (x.regs.plane p).addr
  | .stride p => (x.regs.plane p).stride
  | .src0Stride2 => x.regs.src0Stride2
  | .reserved => 0

/-- FILL without its reserved bits 31:24 (R28, R30). -/
def fillBits (v : Word) : Word := v &&& 0x00FFFFFF

/-- A plane's descriptor replaced. -/
def CmdRegs.setPlane (L : CmdRegs) (p : PlaneId) (d : PlaneRegs) : CmdRegs :=
  match p with
  | .src0 => { L with src0 := d }
  | .src1 => { L with src1 := d }
  | .src2 => { L with src2 := d }
  | .dst0 => { L with dst0 := d }
  | .dst1 => { L with dst1 := d }
  | .dst2 => { L with dst2 := d }

/-- A write to a configuration register; the other registers are not configuration registers (R21, R32). -/
def CmdRegs.writeReg (L : CmdRegs) (n : RegName) (v : Word) : CmdRegs :=
  match n with
  | .cmd => { L with cmd := v }
  | .width => { L with width := v }
  | .height => { L with height := v }
  | .fill => { L with fill := fillBits v }
  | .addr p => L.setPlane p { L.plane p with addr := v }
  | .stride p => L.setPlane p { L.plane p with stride := v }
  | .src0Stride2 => { L with src0Stride2 := v }
  | .id | .ctrl | .status | .result | .reserved => L

/-- The running command, if any, is aborted: it is not completed, and each of its destination bytes ends with its old
value or the rule's (R302). -/
def State.abort (s : State) : State :=
  match s.inst.job? s.plat.tables with
  | some j => s.perform j true
  | none => s

/-- The soft reset of the current instance: the command aborted, every register at its reset value, IRQ_EN included
(R302; assumption 13 for IRQ_EN written 1 in the same write). -/
def State.softReset (s : State) : State := { s.abort with inst := .reset }

/-- A write to CTRL (R23): SOFT_RESET first; otherwise IRQ_EN is updated in every case, and START starts a command
when BUSY = 0 and is ignored when BUSY = 1 (R140). -/
def State.writeCtrl (s : State) (v : Word) : State :=
  if v.getLsbD 2 then s.softReset
  else
    let x := { s.inst with irqEn := v.getLsbD 1 }
    { s with inst := if v.getLsbD 0 && !x.busy then x.start else x }

/-- A 32-bit write to a register of the current instance (R21-R32). -/
def State.writeReg (s : State) (n : RegName) (v : Word) : State :=
  match n with
  | .ctrl => s.writeCtrl v
  | .status => { s with inst := s.inst.acknowledge v }
  | n => { s with inst := { s.inst with regs := s.inst.regs.writeReg n v } }

/-- The inputs of the platform's interrupt controller that the instances assert (R278, R284). -/
def State.assertedLines (s : State) : List IrqLine :=
  ((s.instances.zip s.plat.irqLines).filter fun p => p.1.irq).map fun p => p.2

end Sys2Proof.Machine
end

