-- ==== Sys2Proof/Machine/Bus.lean ====
section
/-! DEFINITION. What the host does on the bus: register accesses and memory accesses, with the hazards of a running
command's footprint (spec/20_memory.md R60, R63, R64, R72, R73; spec/10_state.md R31), the platform's cache maintenance
(R73, R304) and power-on reset (spec/70_reset_and_hazards.md R300). -/

namespace Sys2Proof.Machine
open Sys2Proof.Config

/-- The number of bytes of an access. -/
def AccessSize.bytes : AccessSize → Nat
  | .byte => 1
  | .half => 2
  | .word => 4

/-- The addresses of an access. -/
def accessAddrs (a : Word) (size : AccessSize) : List Word :=
  (List.range size.bytes).map fun i => a + BitVec.ofNat 32 i

/-- The jobs of all commands in flight. -/
def State.jobs (s : State) : List Job := s.instances.filterMap fun x => x.job? s.plat.tables

/-- An access at offset `off` of a register window is a naturally aligned 32-bit one (R31). -/
def windowAccessOk (off : Nat) (size : AccessSize) : Bool := size == .word && off % 4 == 0

/-! ## Reads -/

/-- The host may not see what the block last stored at an address (R73(2), COHERENT false; assumption 16). -/
def State.hiddenFromHost (s : State) (a : Word) : Bool := !s.plat.coherent && s.staleForHost.contains a

/-- What the host reads at a Mapped address: a free byte in the DF of a running command (R72), or where the block's
store is not visible to the host (R73, COHERENT false); otherwise memory. -/
def State.hostReadByte (s : State) (a : Word) : Byte :=
  if s.jobs.any (fun j => j.writes a) || s.hiddenFromHost a
  then freeByte s.freeCount a.toNat
  else s.mem.read a.toNat

/-- A register read: the value, and no side effect (R31). -/
def State.readWindow (s : State) (k off : Nat) : State :=
  match s.instances[k]? with
  | some x => { s with readData := x.readReg s.plat (regAt off) }
  | none => s

/-- A bus read (R31, R60; refusals I12, I20). -/
def State.busRead (s : State) (a : Word) (size : AccessSize) : Host.Outcome State Fault Refusal :=
  match s.windowOf a with
  | some k =>
    if windowAccessOk (a - s.windowBase k).toNat size then .next (s.readWindow k (a - s.windowBase k).toNat)
    else .refused (.windowAccess a)
  | none =>
    if (accessAddrs a size).all s.mapped then
      .next { s with
        readData := BitVec.ofNat 32 (ofBytes ((accessAddrs a size).map s.hostReadByte))
        freeCount := s.freeCount + 1 }
    else .refused (.hostUnmapped a)

/-! ## Writes -/

/-- A command in flight whose footprint holds one of the addresses loses the value of its destination bytes (R72). -/
def CscInstance.hitByAny (t : Tables) (as : List Word) (x : CscInstance) : CscInstance :=
  match x.inFlight, x.job? t with
  | some f, some j =>
    if as.any (fun a => j.reads a || j.writes a) then { x with inFlight := some { f with tainted := true } } else x
  | _, _ => x

/-- What a host write at an address does to an instance (R72). -/
def CscInstance.hitBy (t : Tables) (a : Word) (x : CscInstance) : CscInstance := x.hitByAny t [a]

/-- What a byte the host writes ends with: the host's value, or inside a running command's footprint that or an
unspecified one (R72). -/
def State.hostStoredByte (s : State) (a : Word) (v : Byte) : Byte :=
  if s.jobs.any (fun j => j.reads a || j.writes a) && !freeChoice s.freeCount a.toNat
  then freeByte s.freeCount a.toNat
  else v

/-- The addresses hidden from the block after the host stores at one, when COHERENT is false (R73). -/
def State.staleAfterHost (s : State) (a : Word) : List Word :=
  if s.plat.coherent || s.staleForBlock.contains a then s.staleForBlock else a :: s.staleForBlock

/-- The host stores one byte. -/
def State.hostStoreByte (s : State) (a : Word) (v : Byte) : State :=
  { s with
    before := s.before.map (CscInstance.hitBy s.plat.tables a)
    inst := s.inst.hitBy s.plat.tables a
    after := s.after.map (CscInstance.hitBy s.plat.tables a)
    mem := s.mem.write a.toNat (s.hostStoredByte a v)
    staleForBlock := s.staleAfterHost a }

/-- The host stores the low bytes of a value, little-endian (R63). -/
def State.hostStore (s : State) (a : Word) (size : AccessSize) (v : Word) : State :=
  let t := (List.range size.bytes).foldl
    (fun t i => t.hostStoreByte (a + BitVec.ofNat 32 i) (byteOf v i)) s
  { t with freeCount := s.freeCount + 1 }

/-- A bus write (R31, R60; refusals I12, I20). -/
def State.busWrite (s : State) (a : Word) (size : AccessSize) (v : Word) : Host.Outcome State Fault Refusal :=
  match s.windowOf a with
  | some k =>
    if windowAccessOk (a - s.windowBase k).toNat size then
      .next ((s.focus k).writeReg (regAt (a - s.windowBase k).toNat) v)
    else .refused (.windowAccess a)
  | none =>
    if (accessAddrs a size).all s.mapped then .next (s.hostStore a size v)
    else .refused (.hostUnmapped a)

/-! ## The platform's inputs -/

/-- The addresses both sides have stored to since the last maintenance. -/
def State.staleForBoth (s : State) : List Word := s.staleForBlock.filter fun a => s.staleForHost.contains a

/-- The platform's means of making stores visible (R73, R304): afterwards both sides see memory. A byte both sides wrote
since the last maintenance is left free (I24, assumption 16).

DESIGN CHOICE, assumption 16: R73(1) asks for it before the START write and no rule says what it does to a command
already in flight. Here such a command, when its footprint holds a byte the maintenance makes visible to the block, is
marked as one a host write has met (R72), so every byte of its DF ends free. -/
def State.maintain (s : State) : State :=
  { s with
    before := s.before.map (CscInstance.hitByAny s.plat.tables s.staleForBlock)
    inst := s.inst.hitByAny s.plat.tables s.staleForBlock
    after := s.after.map (CscInstance.hitByAny s.plat.tables s.staleForBlock)
    mem := s.mem.writeAll (s.staleForBoth.map fun a => (a, freeByte s.freeCount a.toNat))
    staleForBlock := []
    staleForHost := []
    freeCount := s.freeCount + 1 }

/-- Power-on reset (R300): every instance takes its reset state; memory is not touched, but for the bytes a command in
flight was writing (assumption 18).

DESIGN CHOICE, assumption 16: with COHERENT false no rule says whether the reset makes bytes visible; what was hidden from
one side stays hidden, so that it still reads free. -/
def State.powerOn (s : State) : State :=
  ((List.range s.nInstances).foldl (fun t k => (t.focus k).softReset) s).focus 0

end Sys2Proof.Machine
end

