-- ==== Sys2Proof/Machine/PlaneOps.lean ====
section
/-! DEFINITION. The meanings of the plane operations (spec/42_plane_ops.md): each is the shared execution of R143-R154 with its own rule. -/

namespace Sys2Proof.Machine

/-- PCOPY (R170). -/
def execPcopy (s : State) : Host.Outcome State Fault Refusal :=
  runOperation pcopyRule s

/-- PCOPY2 (R171). -/
def execPcopy2 (s : State) : Host.Outcome State Fault Refusal :=
  runOperation pcopy2Rule s

/-- PMIRROR (R172). -/
def execPmirror (s : State) : Host.Outcome State Fault Refusal :=
  runOperation pmirrorRule s

/-- PSET (R173). -/
def execPset (s : State) : Host.Outcome State Fault Refusal :=
  runOperation psetRule s

/-- PSPLIT2 (R174). -/
def execPsplit2 (s : State) : Host.Outcome State Fault Refusal :=
  runOperation psplit2Rule s

end Sys2Proof.Machine
end

