-- ==== Sys2Proof/Machine/RgbPack.lean ====
section
/-! DEFINITION. The meanings of the packed RGB repacking commands (spec/45_rgb_pack.md): each is the shared execution of R143-R154 with its own rule. -/

namespace Sys2Proof.Machine

/-- RGB32TORGB565 (R231). -/
def execRgb32torgb565 (sord : ChanOrder) (s : State) : Host.Outcome State Fault Refusal :=
  runOperation (rgb32torgb565Rule sord) s

/-- RGB32TOARGB1555 (R232). -/
def execRgb32toargb1555 (sord : ChanOrder) (s : State) : Host.Outcome State Fault Refusal :=
  runOperation (rgb32toargb1555Rule sord) s

/-- RGB32TOARGB4444 (R233). -/
def execRgb32toargb4444 (sord : ChanOrder) (s : State) : Host.Outcome State Fault Refusal :=
  runOperation (rgb32toargb4444Rule sord) s

/-- RGB32TORGB24 (R234). -/
def execRgb32torgb24 (sord : ChanOrder) (dord : Rgb24Layout) (s : State) : Host.Outcome State Fault Refusal :=
  runOperation (rgb32torgb24Rule sord dord) s

/-- RGB24TORGB32 (R235). -/
def execRgb24torgb32 (sord : Rgb24Layout) (dord : ChanOrder) (s : State) : Host.Outcome State Fault Refusal :=
  runOperation (rgb24torgb32Rule sord dord) s

/-- RGB32REORDER (R236). -/
def execRgb32reorder (sord : ChanOrder) (dord : ChanOrder) (s : State) : Host.Outcome State Fault Refusal :=
  runOperation (rgb32reorderRule sord dord) s

end Sys2Proof.Machine
end

