-- ==== Sys2Proof/Machine/RgbToYuv.lean ====
section
/-! DEFINITION. The meanings of the packed RGB to YUV commands (spec/46_rgb_to_yuv.md): each is the shared execution of R143-R154 with its own rule. -/

namespace Sys2Proof.Machine

/-- RGB32TOI400 (R250). -/
def execRgb32toi400 (sord : ChanOrder) (s : State) : Host.Outcome State Fault Refusal :=
  runOperation (rgb32toi400Rule sord) s

/-- RGB32TOI420 (R251). -/
def execRgb32toi420 (sord : ChanOrder) (s : State) : Host.Outcome State Fault Refusal :=
  runOperation (rgb32toi420Rule sord) s

end Sys2Proof.Machine
end

