-- ==== Sys2Proof/Machine/YuvPlanar.lean ====
section
/-! DEFINITION. The meanings of the planar YUV conversions (spec/43_yuv_planar.md): each is the shared execution of R143-R154 with its own rule. -/

namespace Sys2Proof.Machine

/-- I420COPY (R190). -/
def execI420copy (s : State) : Host.Outcome State Fault Refusal :=
  runOperation i420copyRule s

/-- I420MIRROR (R191). -/
def execI420mirror (s : State) : Host.Outcome State Fault Refusal :=
  runOperation i420mirrorRule s

/-- I420RECT (R192). -/
def execI420rect (s : State) : Host.Outcome State Fault Refusal :=
  runOperation i420rectRule s

/-- I422TOI420 (R193). -/
def execI422toi420 (s : State) : Host.Outcome State Fault Refusal :=
  runOperation i422toi420Rule s

/-- NV420TOI420 (R194, R195). -/
def execNv420toi420 (lay : BiplanarLayout) (s : State) : Host.Outcome State Fault Refusal :=
  runOperation (nv420toi420Rule lay) s

/-- P422TOI420 (R196). -/
def execP422toi420 (sord : Yuv422Order) (s : State) : Host.Outcome State Fault Refusal :=
  runOperation (p422toi420Rule sord) s

end Sys2Proof.Machine
end

