-- ==== Sys2Proof/Machine/YuvToRgb.lean ====
section
/-! DEFINITION. The meanings of the YUV to packed RGB conversions (spec/44_yuv_to_rgb.md): each is the shared execution of R143-R154 with its own rule. -/

namespace Sys2Proof.Machine

/-- I420TORGB32 (R211). -/
def execI420torgb32 (dord : ChanOrder) (s : State) : Host.Outcome State Fault Refusal :=
  runOperation (i420torgb32Rule dord) s

/-- I422TORGB32 (R212). -/
def execI422torgb32 (dord : ChanOrder) (s : State) : Host.Outcome State Fault Refusal :=
  runOperation (i422torgb32Rule dord) s

/-- I444TORGB32 (R213). -/
def execI444torgb32 (dord : ChanOrder) (s : State) : Host.Outcome State Fault Refusal :=
  runOperation (i444torgb32Rule dord) s

/-- I400TORGB32 (R214). -/
def execI400torgb32 (dord : ChanOrder) (s : State) : Host.Outcome State Fault Refusal :=
  runOperation (i400torgb32Rule dord) s

end Sys2Proof.Machine
end

