-- ==== Sys2Proof/Machine/Dispatch.lean ====
section
/-! DEFINITION. One arm per command. -/

namespace Sys2Proof.Machine

def exec (i : Instr) (s : State) : Host.Outcome State Fault Refusal :=
  match i with
  | .pcopy => Sys2Proof.Machine.execPcopy s
  | .pcopy2 => Sys2Proof.Machine.execPcopy2 s
  | .pmirror => Sys2Proof.Machine.execPmirror s
  | .pset => Sys2Proof.Machine.execPset s
  | .psplit2 => Sys2Proof.Machine.execPsplit2 s
  | .i420copy => Sys2Proof.Machine.execI420copy s
  | .i420mirror => Sys2Proof.Machine.execI420mirror s
  | .i420rect => Sys2Proof.Machine.execI420rect s
  | .i422toi420 => Sys2Proof.Machine.execI422toi420 s
  | .nv420toi420 lay => Sys2Proof.Machine.execNv420toi420 lay s
  | .p422toi420 sord => Sys2Proof.Machine.execP422toi420 sord s
  | .i420torgb32 dord => Sys2Proof.Machine.execI420torgb32 dord s
  | .i422torgb32 dord => Sys2Proof.Machine.execI422torgb32 dord s
  | .i444torgb32 dord => Sys2Proof.Machine.execI444torgb32 dord s
  | .i400torgb32 dord => Sys2Proof.Machine.execI400torgb32 dord s
  | .rgb32torgb565 sord => Sys2Proof.Machine.execRgb32torgb565 sord s
  | .rgb32toargb1555 sord => Sys2Proof.Machine.execRgb32toargb1555 sord s
  | .rgb32toargb4444 sord => Sys2Proof.Machine.execRgb32toargb4444 sord s
  | .rgb32torgb24 sord dord => Sys2Proof.Machine.execRgb32torgb24 sord dord s
  | .rgb24torgb32 sord dord => Sys2Proof.Machine.execRgb24torgb32 sord dord s
  | .rgb32reorder sord dord => Sys2Proof.Machine.execRgb32reorder sord dord s
  | .rgb32toi400 sord => Sys2Proof.Machine.execRgb32toi400 sord s
  | .rgb32toi420 sord => Sys2Proof.Machine.execRgb32toi420 sord s

end Sys2Proof.Machine
end

