-- ==== Sys2Proof/Machine/Execute.lean ====
section
/-! DEFINITION. What one step does: run a command in flight (spec/41_command_model.md R141, R142), or take the next
entry of the agenda. -/

namespace Sys2Proof.Machine

/-- The current instance's command: decoded and executed, or completed with ILLEGAL_COMMAND, with no memory access
(R142, R154, R275). -/
def State.runCurrent (s : State) : Host.Outcome State Fault Refusal :=
  match decode s.command.cmd with
  | none => .next (s.complete codeIllegalCommand)
  | some i => exec i s

/-- The lowest-numbered instance with a command in flight. -/
def State.firstBusy (s : State) : Option Nat :=
  (List.range s.nInstances).find? fun k => match s.instances[k]? with
    | some x => x.busy
    | none => false

/-- Some command in flight, the current instance's first, takes effect and completes; with none in flight the machine
stays as it is, since it "executes nothing until a START" (R287, R300, R320). -/
def State.runAny (s : State) : Host.Outcome State Fault Refusal :=
  if s.inst.busy then s.runCurrent
  else match s.firstBusy with
    | some k => (s.focus k).runCurrent
    | none => .next s

/-- Instance `k`'s command takes effect and completes; an idle or absent instance has nothing to run. -/
def State.runInstance (s : State) (k : Nat) : Host.Outcome State Fault Refusal :=
  if k < s.nInstances && (s.focus k).inst.busy then (s.focus k).runCurrent else .next s

/-- `POLL` (R99): the read; when `(v AND mask) = value` the poll is over, and otherwise it stands on the agenda again
while some command in flight completes. -/
def State.pollOnce (s : State) (a mask value : Word) : Host.Outcome State Fault Refusal :=
  match s.busRead a .word with
  | .next t =>
    if t.readData &&& mask = value then .next t
    else { t with agenda := .poll a mask value :: t.agenda }.runAny
  | .fault r => .fault r
  | .refused r => .refused r

/-- An entry of the agenda, already taken off it. -/
def State.handle (s : State) : Event → Host.Outcome State Fault Refusal
  | .read a size => s.busRead a size
  | .write a size v => s.busWrite a size v
  | .poll a mask value => s.pollOnce a mask value
  | .run k => s.runInstance k
  | .cacheMaintenance => .next s.maintain
  | .powerOnReset => .next s.powerOn

/-- One step: the next entry of the agenda, or, with an empty agenda, a command in flight (R71, R72, R320). -/
def State.advance (s : State) : Host.Outcome State Fault Refusal :=
  match s.agenda with
  | [] => s.runAny
  | e :: rest => { s with agenda := rest }.handle e

/-- The configuration registers with CMD replaced. -/
def CmdRegs.withCmd (L : CmdRegs) (w : Word) : CmdRegs := { L with cmd := w }

/-- The current instance with command word `w` written to CMD and START accepted (R140). -/
def CscInstance.started (x : CscInstance) (w : Word) : CscInstance :=
  { x with regs := x.regs.withCmd w }.start

/-- The agenda under which the current instance's command runs next. -/
def State.runNext (s : State) : List Event :=
  match s.agenda with
  | [] => []
  | l => .run s.current :: l

end Sys2Proof.Machine
end

