-- ==== Sys2Proof/Machine/Step.lean ====
section
/-! DEFINITION. The step, and the host's way of placing a command in it. -/

namespace Sys2Proof.Machine

/-- One step of the machine (Machine/Execute.lean). -/
def step (s : State) : Host.Outcome State Fault Refusal := s.advance

/-- The machine with the command word `w` in place, so that the next step runs it: CMD written and START accepted on the
current instance, which latches `w` with the other configuration registers as they stand (R140), and that command's turn
next (assumption 10). -/
def State.withFetchWord (s : State) (nbits w : Nat) : State :=
  { s with inst := s.inst.started (BitVec.ofNat 32 (w % 2 ^ nbits)), agenda := s.runNext }

end Sys2Proof.Machine
end

