-- ==== Sys2Proof/Machine/Program.lean ====
section
/-! DEFINITION. The host-program notation of spec/30_encoding.md R99, as agenda entries. -/

namespace Sys2Proof.Machine
open Sys2Proof.Config

/-- The address of offset `off` of instance `k`'s window (R20). -/
def windowAddr (p : Platform) (k off : Nat) : Word := p.cscBase + BitVec.ofNat 32 (k * 0x100 + off)

/-- `WR off, value` on instance `k` (R99). -/
def hostWR (p : Platform) (k off : Nat) (v : Word) : Event := .write (windowAddr p k off) .word v

/-- `RD off` on instance `k` (R99). -/
def hostRD (p : Platform) (k off : Nat) : Event := .read (windowAddr p k off) .word

/-- `POLL off, mask, value` on instance `k` (R99). -/
def hostPOLL (p : Platform) (k off : Nat) (mask value : Word) : Event := .poll (windowAddr p k off) mask value

/-- `RUN cmd`: `WR 0x10, cmd; WR 0x04, 0x1; POLL 0x08, 0x1, 0x0` (R99). -/
def hostRUN (p : Platform) (k : Nat) (cmd : Word) : List Event :=
  [hostWR p k 0x10 cmd, hostWR p k 0x04 0x1, hostPOLL p k 0x08 0x1 0x0]

/-- A byte list at an address, as R99 writes memory contents. -/
def hostBytes (a : Word) : List Byte → List Event
  | [] => []
  | b :: bs => .write a .byte (b.zeroExtend 32) :: hostBytes (a + 1) bs

end Sys2Proof.Machine
end

