-- ==== Sys2Proof/Safety.lean ====
section
/-! DEFINITION. The vocabulary of claims: what a clean run of a command is, what its completion leaves, which bytes a
plane designates, and the invariant of the machine. -/

namespace Sys2Proof.Machine
open Sys2Proof.Config

/-! ## Memory, byte by byte -/

/-- The byte at an address. -/
def State.byte (s : State) (a : Word) : Byte := s.mem.read a.toNat

/-- A plane designates an address: it is byte `i` of row `r` for some row and byte of the plane (R66). -/
def Plane.covers (p : Plane) (a : Word) : Prop := ∃ r < p.rows, ∃ i < p.bytes, p.byteAddr r i = a

/-- No plane of a list designates the address. -/
def Outside (ps : List Plane) (a : Word) : Prop := ∀ p ∈ ps, ¬ p.covers a

/-! ## Runs of a command -/

/-- The conditions under which every rule of the spec fixes a command's result: it is valid (R144, R145), its footprint
is Mapped (R153), it is well-formed in memory (R68, R69), no host write (R72) and no command of another instance (R75)
has met its footprint, and its source bytes are visible to the block (R73). They speak of the state alone. -/
def cleanRun (i : Instr) (s : State) : Bool :=
  (ruleOf i).valid s.command && s.footprintMapped ((ruleOf i).jobOn s) &&
  ((ruleOf i).jobOn s).memWellFormed && !s.tainted && !s.conflict ((ruleOf i).jobOn s) &&
  s.sourceIntact ((ruleOf i).jobOn s)

/-- What a command leaves unchanged, whatever its outcome: the live registers, IRQ_EN, the platform, the agenda, the
host's last read, and the bytes hidden from the block (R156). -/
def KeepsRegisters (s t : State) : Prop :=
  t.inst.regs = s.inst.regs ∧ t.inst.irqEn = s.inst.irqEn ∧ t.plat = s.plat ∧ t.agenda = s.agenda ∧
  t.readData = s.readData ∧ t.staleForBlock = s.staleForBlock

/-- A command has completed with code `c` and changed no register but STATUS and RESULT, here or on another instance
(R156, R272). -/
def CompletedWith (c : Word) (s t : State) : Prop :=
  t.inst = s.inst.complete c ∧ t.before = s.before ∧ t.after = s.after ∧ t.plat = s.plat ∧ t.agenda = s.agenda ∧
  t.readData = s.readData ∧ t.staleForBlock = s.staleForBlock

/-! ## Addresses and sizes, as the rules name them -/

/-- The normalised geometry of the current instance's command (R146). -/
def State.geo (s : State) : Geometry := s.command.geometry

/-- The address of byte `i` of iteration row `r` of a single-stride source plane of `rows` rows (R148(a), R150). -/
def State.srcAddr (s : State) (p : PlaneId) (rows r i : Nat) : Word :=
  toAddress (storedRow (s.command.addrOf p) (s.command.strideOf p) (iterationRow s.geo.flip rows r)) +
    BitVec.ofNat 32 i

/-- The address of byte `i` of row `r` of a destination plane (R148(a), R150). -/
def State.dstAddr (s : State) (p : PlaneId) (r i : Nat) : Word :=
  toAddress (storedRow (s.command.addrOf p) (s.command.strideOf p) r) + BitVec.ofNat 32 i

/-- `P[r][i]` of a single-stride source plane of `rows` rows: a byte of M0 (R12, R150). -/
def State.srcByte (s : State) (p : PlaneId) (rows r i : Nat) : Byte := s.byte (s.srcAddr p rows r i)

/-- Pixel `x` of row `r` of an RGB32 SRC0, in a channel order (R123). -/
def State.srcPixel32 (s : State) (o : ChanOrder) (r x : Nat) : Pixel :=
  readPix32 o fun j => s.srcByte .src0 s.geo.h r (4 * x + j)

/-- No byte of a destination plane of `rows` rows of `bytes` bytes is at the address. -/
def NotStored (s : State) (p : PlaneId) (rows bytes : Nat) (a : Word) : Prop :=
  ∀ r < rows, ∀ i < bytes, s.dstAddr p r i ≠ a

/-- No byte of an I420 destination is at the address (R97). -/
def NotStoredI420 (s : State) (a : Word) : Prop :=
  NotStored s .dst0 s.geo.h s.geo.w a ∧ NotStored s .dst1 s.geo.ch s.geo.cw a ∧ NotStored s .dst2 s.geo.ch s.geo.cw a

/-- The size check of R145. -/
def SizeLegal (L : CmdRegs) : Prop := 0 < sext32 L.width ∧ sext32 L.height ≠ 0 ∧ sext32 L.height ≠ -2 ^ 31

/-- What every operation rule says of its command at a state, `post` being its pseudocode: its encoding; INVALID_ARGUMENT
when a plane of `req` is null or the size is illegal, with nothing else changed; BUS_ERROR when a footprint byte is not
Mapped; and on a clean run completion with 0 and `post` (spec/42_plane_ops.md to spec/46_rgb_to_yuv.md). -/
def RuleHolds (i : Instr) (word : Word) (req : List PlaneId) (s : State) (post : State → Prop) : Prop :=
  decode word = some i ∧
  (((∃ p ∈ req, s.command.addrOf p = 0) ∨ ¬ SizeLegal s.command) → exec i s = .next (s.complete codeInvalidArgument)) ∧
  ((∀ p ∈ req, s.command.addrOf p ≠ 0) → SizeLegal s.command → s.footprintMapped ((ruleOf i).jobOn s) = false →
    ∃ t, exec i s = .next t ∧ t.inst = s.inst.complete codeBusError) ∧
  (cleanRun i s = true → ∃ t, exec i s = .next t ∧ CompletedWith codeOk s t ∧ post t)

/-! ## The invariant -/

/-- RESULT holds one of the codes of R270. -/
def resultLegal (v : Word) : Bool :=
  v == codeOk || v == codeInvalidArgument || v == codeIllegalCommand || v == codeBusError

/-- FILL's reserved bits 31:24 read 0 (R28, R30). -/
def fillLegal (L : CmdRegs) : Bool := L.fill.extractLsb' 24 8 == 0

/-- An instance's registers: BUSY excludes DONE and ERR (R24, R140, R272), RESULT is a code of R270, and FILL's reserved
bits are 0 in the live and the latched copy. -/
def CscInstance.legal (x : CscInstance) : Bool :=
  !(x.busy && (x.done || x.err)) && resultLegal x.result && fillLegal x.regs &&
  match x.inFlight with
  | some f => fillLegal f.regs
  | none => true

/-- The invariant: memory is in its canonical form and every instance is legal. -/
def State.Inv (s : State) : Prop := s.mem.wf = true ∧ ∀ x ∈ s.instances, x.legal = true

/-- How many commands are in flight. -/
def State.busyCount (s : State) : Nat := (s.instances.filter CscInstance.busy).length

end Sys2Proof.Machine
end

