-- ==== Sys2Proof/Certificates/Slice0/Obligations.lean ====
section
/-! DEFINITION. The statements for the provers. Each docstring names the rule of spec/ it formalises. -/

open Sys2Proof Sys2Proof.Machine Sys2Proof.Config

/-! ## Encoding (spec/30_encoding.md) -/

/-- R93, R98: a word of each family, written out from the opcode map, decodes to its command; the words D-EN1, D-EN3,
D-EN8 and D-EN10 of spec/95_test_vectors.md are illegal. -/
def Obligations.OpcodeWordsDecode : Prop :=
  decode 0x00000001 = some .pcopy ∧ decode 0x00000013 = some .i422toi420 ∧
  decode 0x00001014 = some (.nv420toi420 .m420) ∧ decode 0x00000820 = some (.i420torgb32 .abgr) ∧
  decode 0x00000638 = some (.rgb32torgb24 .abgr .raw) ∧ decode 0x00000139 = some (.rgb24torgb32 .raw .argb) ∧
  decode 0x00000241 = some (.rgb32toi420 .abgr) ∧
  decode 0x00000000 = none ∧ decode 0x00000101 = none ∧ decode 0x00000239 = none ∧ decode 0x00001015 = none

/-- R93-R96: decoding and encoding are inverse in both directions, for every command with every value of its fields and
every 32-bit word: no legal word has a second meaning and no bit of it is dropped. -/
def Obligations.DecodeEncodeInverse : Prop :=
  ∀ (w : Word) (i : Instr), decode w = some i ↔ encode i = w

/-- R95, with the map of R93: a word is either one legal command, matching exactly one row, that of its mnemonic, or it
is illegal and matches no row. -/
def Obligations.EveryWordIsOneRowOrIllegal : Prop :=
  ∀ w : Word,
    (∃ i row, decode w = some i ∧ row ∈ opcodeMap ∧ row.matches w = true ∧ row.mnemonic = i.mnemonic ∧
      ∀ row' ∈ opcodeMap, row'.matches w = true → row' = row) ∨
    (decode w = none ∧ ∀ row ∈ opcodeMap, row.matches w = false)

/-- R100: each pseudo-command expands to the command word its table shows. -/
def Obligations.PseudoCommandWords : Prop :=
  Pseudo.NV12TOI420.word = some 0x00000014 ∧ Pseudo.M420TOI420.word = some 0x00001014 ∧
  Pseudo.YUY2TOI420.word = some 0x00000015 ∧ Pseudo.UYVYTOI420.word = some 0x00000115 ∧
  Pseudo.I420TOARGB.word = some 0x020 ∧ Pseudo.I420TOBGRA.word = some 0x420 ∧
  Pseudo.I420TOABGR.word = some 0x820 ∧ Pseudo.I420TORGBA.word = some 0xC20 ∧
  Pseudo.I422TOARGB.word = some 0x00000021 ∧ Pseudo.I444TOARGB.word = some 0x00000022 ∧
  Pseudo.I400TOARGB.word = some 0x00000023 ∧ Pseudo.ARGBTORGB565.word = some 0x030 ∧
  Pseudo.ARGBTOARGB1555.word = some 0x031 ∧ Pseudo.ARGBTOARGB4444.word = some 0x032 ∧
  Pseudo.ARGBTORGB24.word = some 0x00000038 ∧ Pseudo.ARGBTORAW.word = some 0x00000438 ∧
  Pseudo.RGB24TOARGB.word = some 0x00000039 ∧ Pseudo.RAWTOARGB.word = some 0x00000139 ∧
  Pseudo.ARGBTOBGRA.word = some 0x0000043A ∧ Pseudo.BGRATOARGB.word = some 0x0000013A ∧
  Pseudo.ARGBTOABGR.word = some 0x0000083A ∧ Pseudo.ABGRTOARGB.word = some 0x0000023A ∧
  Pseudo.ARGBTOI400.word = some 0x00000040 ∧ Pseudo.ARGBTOI420.word = some 0x00000041 ∧
  Pseudo.BGRATOI420.word = some 0x141 ∧ Pseudo.ABGRTOI420.word = some 0x241

/-- R98: the assembler gives a command to exactly the well-formed terms; a term without suffixes means the same as the one
that writes a suffix of code 0 for each free field; and then SORD, DORD and LAY are 0 in its word. -/
def Obligations.AssemblerAcceptsWellFormedTerms : Prop :=
  (∀ c : AsmCommand, c.assemble.isSome = c.wellFormed) ∧
  (∀ (m : Mnemonic) (l : List Suffix), l.map Suffix.kind = m.freeFields → (∀ x ∈ l, x.code = 0) →
    AsmCommand.assemble ⟨m, []⟩ = AsmCommand.assemble ⟨m, l⟩) ∧
  ∀ m : Mnemonic, ∃ i, AsmCommand.assemble ⟨m, []⟩ = some i ∧ (encode i).extractLsb' 8 24 = 0

/-! ## Execution (spec/41_command_model.md, spec/60_exceptions.md) -/

/-- Everything beside the instances is as it was. -/
def SameBesideInstances (s t : State) : Prop :=
  t.mem = s.mem ∧ t.plat = s.plat ∧ t.agenda = s.agenda ∧ t.readData = s.readData ∧
  t.staleForBlock = s.staleForBlock ∧ t.staleForHost = s.staleForHost ∧ t.freeCount = s.freeCount

/-- R141, R142: when a busy instance's latched command word decodes, the step that runs it is that command's execution
with that instance in front: with an empty agenda the current instance's if it is busy, else the lowest-numbered busy one's;
and, for any instance, when the agenda's next entry says that its command runs. (The agenda, its `run` entries and which
instance an empty agenda runs are the model's choice, log entries 5 and 6.) -/
def Obligations.StepRunsTheDecodedCommand : Prop :=
  ∀ (s : State) (k : Nat) (x : CscInstance) (f : InFlight) (i : Instr), s.instances[k]? = some x →
    x.inFlight = some f → decode f.regs.cmd = some i →
    (k = s.current → s.focus k = s) ∧ (s.focus k).inst = x ∧ (s.focus k).instances = s.instances ∧
    SameBesideInstances s (s.focus k) ∧
    (s.agenda = [] → k = s.current → step s = exec i s) ∧
    (s.agenda = [] → s.inst.inFlight = none →
      (∀ (m : Nat) (y : CscInstance), m < k → s.instances[m]? = some y → y.inFlight = none) →
      step s = exec i (s.focus k)) ∧
    ∀ rest, s.agenda = .run k :: rest → step s = exec i (State.focus { s with agenda := rest } k)

/-- R142, R144, R145, R275: a latched word that matches no row completes, in a step with an empty agenda, with
ILLEGAL_COMMAND; and a null required plane, or an illegal size, completes every command with INVALID_ARGUMENT. In both
cases the registers, the other instances and the whole of memory are unchanged. The strides play no part. (That a step with
an empty agenda completes the current instance's command is the model's choice, log entries 5 and 6.) -/
def Obligations.FailedChecksTouchNothing : Prop :=
  (∀ (s : State) (f : InFlight), s.agenda = [] → s.inst.inFlight = some f → decode f.regs.cmd = none →
    step s = .next { s with inst := { s.inst with result := BitVec.ofInt 32 (-2), inFlight := none,
                                                  done := true, err := true } }) ∧
  ∀ (i : Instr) (s : State),
    ((∃ p ∈ (ruleOf i).req, s.command.addrOf p = 0) ∨ sext32 s.command.width ≤ 0 ∨ sext32 s.command.height = 0 ∨
      sext32 s.command.height = -2 ^ 31) →
    exec i s = .next { s with inst := { s.inst with result := BitVec.ofInt 32 (-1), inFlight := none,
                                                    done := true, err := true } }

/-- R273, R270, R272: the code a command in flight completes with is the first of ILLEGAL_COMMAND, INVALID_ARGUMENT from
the pointer check, INVALID_ARGUMENT from the size check, BUS_ERROR whose cause holds, and otherwise OK. (That a step with
an empty agenda completes the current instance's command is the model's choice, log entries 5 and 6.) -/
def Obligations.ResultFollowsPriority : Prop :=
  ∀ (s : State) (f : InFlight), s.agenda = [] → s.inst.inFlight = some f →
    ∃ t, step s = .next t ∧ t.inst.inFlight = none ∧ t.inst.done = true ∧
      (decode f.regs.cmd = none → t.inst.result = BitVec.ofInt 32 (-2) ∧ t.inst.err = true) ∧
      ∀ i, decode f.regs.cmd = some i →
        ((∃ p ∈ (ruleOf i).req, f.regs.addrOf p = 0) → t.inst.result = BitVec.ofInt 32 (-1) ∧ t.inst.err = true) ∧
        ((∀ p ∈ (ruleOf i).req, f.regs.addrOf p ≠ 0) →
          (¬ SizeLegal f.regs → t.inst.result = BitVec.ofInt 32 (-1) ∧ t.inst.err = true) ∧
          (SizeLegal f.regs →
            (s.footprintMapped ((ruleOf i).jobOn s) = false →
              t.inst.result = BitVec.ofInt 32 (-3) ∧ t.inst.err = true) ∧
            (s.footprintMapped ((ruleOf i).jobOn s) = true → t.inst.result = 0 ∧ t.inst.err = false)))

/-- R276: with a footprint byte that is not Mapped, a valid command completes with BUS_ERROR; each Mapped destination
byte of a command that is otherwise well-defined ends with its old value or its rule's; a byte that is not a destination
byte is unchanged; no register but STATUS and RESULT changes, so no address is recorded. (That a destination byte that is
not Mapped is unchanged, and that a source byte that is not Mapped contributes any value, are log entry 12; that a source
byte hidden from the block does too is I24.) -/
def Obligations.BusErrorEffects : Prop :=
  ∀ (i : Instr) (s : State), (ruleOf i).valid s.command = true →
    s.footprintMapped ((ruleOf i).jobOn s) = false →
    ∃ t, exec i s = .next t ∧ t.inst = s.inst.complete (BitVec.ofInt 32 (-3)) ∧ KeepsRegisters s t ∧
      (∀ a, Outside ((ruleOf i).jobOn s).dsts a ∨ s.mapped a = false → t.byte a = s.byte a) ∧
      (s.unspecified ((ruleOf i).jobOn s) = false →
        ∃ src : SourceBytes,
          (∀ (k : Nat) (p : Plane) (r b : Nat), ((ruleOf i).jobOn s).srcs[k]? = some p →
            s.mapped (p.byteAddr r b) = true → s.hiddenFromBlock (p.byteAddr r b) = false →
            src k r b = s.byte (p.byteAddr r b)) ∧
          ∀ (k : Nat) (p : Plane) (r b : Nat), ((ruleOf i).jobOn s).dsts[k]? = some p → r < p.rows → b < p.bytes →
            s.mapped (p.byteAddr r b) = true →
            t.byte (p.byteAddr r b) = s.byte (p.byteAddr r b) ∨
            t.byte (p.byteAddr r b) = ((ruleOf i).jobOn s).value src k r b)

/-- R156, R272, R274: every command, at every state, completes: it answers a next state with a code of R270 in RESULT,
BUSY clear, DONE set and ERR set exactly on failure, and no other register of the instance, and nothing of the platform,
is changed. No command stops the machine. -/
def Obligations.ExecCompletesAndKeepsRegisters : Prop :=
  ∀ (i : Instr) (s : State), ∃ t c, exec i s = .next t ∧ (c = 0 ∨ c = -1 ∨ c = -3) ∧
    t.inst = { s.inst with result := BitVec.ofInt 32 c, inFlight := none, done := true, err := decide (c < 0) } ∧
    KeepsRegisters s t

/-- R285: executing a command changes no register of another instance; a command in flight there keeps its latched copy,
and can only be marked as one whose destination bytes are unspecified (R75). -/
def Obligations.OtherInstancesKeepRegisters : Prop :=
  ∀ (i : Instr) (s t : State), exec i s = .next t →
    List.Forall₂ (fun x y : CscInstance => y = x ∨
      ∃ f, x.inFlight = some f ∧ y = { x with inFlight := some { f with tainted := true } })
      (s.before ++ s.after) (t.before ++ t.after)

/-! ## Memory (spec/20_memory.md) -/

/-- R67: a command writes no byte outside its destination footprint, padding and source bytes among them, whatever its
outcome. -/
def Obligations.MemoryOutsideDestinationKept : Prop :=
  ∀ (i : Instr) (s t : State) (a : Word), exec i s = .next t → Outside ((ruleOf i).jobOn s).dsts a →
    t.byte a = s.byte a

/-- R68: a command in which two distinct write positions designate the same byte, or a write position and a read position
do and R69 does not apply, still completes with 0; every destination byte ends with a free value, and every other byte is
unchanged. (That R69 applies to a flipped command whose rows coincide is log entry 25.) -/
def Obligations.IllFormedCommandLeavesFreeBytes : Prop :=
  ∀ (i : Instr) (s : State), (ruleOf i).valid s.command = true → s.footprintMapped ((ruleOf i).jobOn s) = true →
    ((∃ (k : Nat) (p : Plane) (r b k' : Nat) (p' : Plane) (r' b' : Nat),
        ((ruleOf i).jobOn s).dsts[k]? = some p ∧ ((ruleOf i).jobOn s).dsts[k']? = some p' ∧
        r < p.rows ∧ b < p.bytes ∧ r' < p'.rows ∧ b' < p'.bytes ∧ (k, r, b) ≠ (k', r', b') ∧
        p.byteAddr r b = p'.byteAddr r' b') ∨
      ((∃ d ∈ ((ruleOf i).jobOn s).dsts, ∃ q ∈ ((ruleOf i).jobOn s).srcs, ∃ a, d.covers a ∧ q.covers a) ∧
        ¬ (((ruleOf i).jobOn s).inPlace = true ∧ ∃ q d, ((ruleOf i).jobOn s).srcs = [q] ∧
          ((ruleOf i).jobOn s).dsts = [d] ∧ ∀ r < d.rows, q.row r = d.row r))) →
    ∃ t, exec i s = .next t ∧ t.inst = s.inst.complete 0 ∧
      (∀ d ∈ ((ruleOf i).jobOn s).dsts, ∀ a, d.covers a → t.byte a = freeByte s.freeCount a.toNat) ∧
      ∀ a, Outside ((ruleOf i).jobOn s).dsts a → t.byte a = s.byte a

/-- R68, R69: the row-by-row check the model runs is the byte-by-byte definition of the spec, for any planes: no two write
positions designate one byte, and no write position and read position do unless the in-place exception applies. (That it
applies to a flipped command whose rows coincide is log entry 25.) -/
def Obligations.WellFormedInMemoryByteByByte : Prop :=
  ∀ j : Job, j.memWellFormed = true ↔
    (∀ (k : Nat) (p : Plane) (r b k' : Nat) (p' : Plane) (r' b' : Nat),
      j.dsts[k]? = some p → j.dsts[k']? = some p' → r < p.rows → b < p.bytes → r' < p'.rows →
      b' < p'.bytes → p.byteAddr r b = p'.byteAddr r' b' → (k, r, b) = (k', r', b')) ∧
    ((∀ d ∈ j.dsts, ∀ q ∈ j.srcs, ∀ a, d.covers a → ¬ q.covers a) ∨
      (j.inPlace = true ∧ ∃ q d, j.srcs = [q] ∧ j.dsts = [d] ∧ ∀ r < d.rows, q.row r = d.row r))

/-- R69, R170: a PCOPY whose source and destination rows coincide, and whose destination designates no byte twice, runs
in place, completes with 0 and leaves the whole of memory as it was. (For a flipped command of more than one row, on which
R69 speaks both ways, this is log entry 25.) -/
def Obligations.InPlacePcopyKeepsMemory : Prop :=
  ∀ s : State, cleanRun .pcopy s = true →
    (∀ r < s.geo.h, s.srcAddr .src0 s.geo.h r 0 = s.dstAddr .dst0 r 0) →
    ∃ t, exec .pcopy s = .next t ∧ t.inst = s.inst.complete 0 ∧ ∀ a, t.byte a = s.byte a

/-- R70, R61: what a command writes is a function of the bytes of its source footprint, the latched registers and the
tables: two clean runs that agree on those write the same bytes, whatever the rest of the two machines holds. -/
def Obligations.ResultDependsOnlyOnSource : Prop :=
  ∀ (i : Instr) (s₁ s₂ t₁ t₂ : State), cleanRun i s₁ = true → cleanRun i s₂ = true →
    s₁.command = s₂.command → s₁.plat.tables = s₂.plat.tables →
    (∀ q ∈ ((ruleOf i).jobOn s₁).srcs, ∀ a, q.covers a → s₁.byte a = s₂.byte a) →
    exec i s₁ = .next t₁ → exec i s₂ = .next t₂ →
    ∀ d ∈ ((ruleOf i).jobOn s₁).dsts, ∀ a, d.covers a → t₁.byte a = t₂.byte a

/-! ## Planes and rows (spec/30_encoding.md R97, spec/41_command_model.md R148-R150) -/

/-- The planes a command uses, each as (row count, row byte count). -/
def planeSizes (i : Instr) (t : Tables) (L : CmdRegs) (g : Geometry) : List (Nat × Nat) × List (Nat × Nat) :=
  ((((ruleOf i).job t L g).srcs.map fun p => (p.rows, p.bytes)), ((ruleOf i).job t L g).dsts.map fun p => (p.rows, p.bytes))

/-- R97, R143: for every opcode, the required planes and the row count and row byte count of each source and destination
plane. -/
def Obligations.PlaneTable : Prop :=
  ∀ (t : Tables) (L : CmdRegs) (g : Geometry) (o o' : ChanOrder) (l : Rgb24Layout) (y : Yuv422Order),
    let i420 := [(g.h, g.w), (g.ch, g.cw), (g.ch, g.cw)]
    let size := fun i => planeSizes i t L g
    (size .pcopy = ([(g.h, g.w)], [(g.h, g.w)]) ∧ (ruleOf .pcopy).req = [.src0, .dst0]) ∧
    (size .pcopy2 = ([(g.h, g.w)], [(g.h, g.w)]) ∧ (ruleOf .pcopy2).req = [.src0, .dst0]) ∧
    (size .pmirror = ([(g.h, g.w)], [(g.h, g.w)]) ∧ (ruleOf .pmirror).req = [.src0, .dst0]) ∧
    (size .pset = ([], [(g.h, g.w)]) ∧ (ruleOf .pset).req = [.dst0]) ∧
    (size .psplit2 = ([(g.h, 2 * g.w)], [(g.h, g.w), (g.h, g.w)]) ∧ (ruleOf .psplit2).req = [.src0, .dst0, .dst1]) ∧
    (size .i420copy = (i420, i420) ∧ (ruleOf .i420copy).req = [.src0, .src1, .src2, .dst0, .dst1, .dst2]) ∧
    (size .i420mirror = (i420, i420) ∧ (ruleOf .i420mirror).req = [.src0, .src1, .src2, .dst0, .dst1, .dst2]) ∧
    (size .i420rect = ([], i420) ∧ (ruleOf .i420rect).req = [.dst0, .dst1, .dst2]) ∧
    (size .i422toi420 = ([(g.h, g.w), (g.h, g.cw), (g.h, g.cw)], i420) ∧
      (ruleOf .i422toi420).req = [.src0, .src1, .src2, .dst0, .dst1, .dst2]) ∧
    (size (.nv420toi420 .nv12) = ([(g.h, g.w), (g.ch, 2 * g.cw)], i420) ∧
      (ruleOf (.nv420toi420 .nv12)).req = [.src0, .src1, .dst0, .dst1, .dst2]) ∧
    (size (.nv420toi420 .m420) = ([(g.h, g.w), (g.ch, 2 * g.cw)], i420) ∧
      (ruleOf (.nv420toi420 .m420)).req = [.src0, .dst0, .dst1, .dst2]) ∧
    (size (.p422toi420 y) = ([(g.h, 4 * g.cw)], i420) ∧ (ruleOf (.p422toi420 y)).req = [.src0, .dst0, .dst1, .dst2]) ∧
    (size (.i420torgb32 o) = (i420, [(g.h, 4 * g.w)]) ∧ (ruleOf (.i420torgb32 o)).req = [.src0, .src1, .src2, .dst0]) ∧
    (size (.i422torgb32 o) = ([(g.h, g.w), (g.h, g.cw), (g.h, g.cw)], [(g.h, 4 * g.w)]) ∧
      (ruleOf (.i422torgb32 o)).req = [.src0, .src1, .src2, .dst0]) ∧
    (size (.i444torgb32 o) = ([(g.h, g.w), (g.h, g.w), (g.h, g.w)], [(g.h, 4 * g.w)]) ∧
      (ruleOf (.i444torgb32 o)).req = [.src0, .src1, .src2, .dst0]) ∧
    (size (.i400torgb32 o) = ([(g.h, g.w)], [(g.h, 4 * g.w)]) ∧ (ruleOf (.i400torgb32 o)).req = [.src0, .dst0]) ∧
    (size (.rgb32torgb565 o) = ([(g.h, 4 * g.w)], [(g.h, 2 * g.w)]) ∧ (ruleOf (.rgb32torgb565 o)).req = [.src0, .dst0]) ∧
    (size (.rgb32toargb1555 o) = ([(g.h, 4 * g.w)], [(g.h, 2 * g.w)]) ∧
      (ruleOf (.rgb32toargb1555 o)).req = [.src0, .dst0]) ∧
    (size (.rgb32toargb4444 o) = ([(g.h, 4 * g.w)], [(g.h, 2 * g.w)]) ∧
      (ruleOf (.rgb32toargb4444 o)).req = [.src0, .dst0]) ∧
    (size (.rgb32torgb24 o l) = ([(g.h, 4 * g.w)], [(g.h, 3 * g.w)]) ∧
      (ruleOf (.rgb32torgb24 o l)).req = [.src0, .dst0]) ∧
    (size (.rgb24torgb32 l o) = ([(g.h, 3 * g.w)], [(g.h, 4 * g.w)]) ∧
      (ruleOf (.rgb24torgb32 l o)).req = [.src0, .dst0]) ∧
    (size (.rgb32reorder o o') = ([(g.h, 4 * g.w)], [(g.h, 4 * g.w)]) ∧
      (ruleOf (.rgb32reorder o o')).req = [.src0, .dst0]) ∧
    (size (.rgb32toi400 o) = ([(g.h, 4 * g.w)], [(g.h, g.w)]) ∧ (ruleOf (.rgb32toi400 o)).req = [.src0, .dst0]) ∧
    (size (.rgb32toi420 o) = ([(g.h, 4 * g.w)], i420) ∧ (ruleOf (.rgb32toi420 o)).req = [.src0, .dst0, .dst1, .dst2])

/-- R147, R148, R150: the rows of a single-stride source plane, of a destination plane of a command with a source and of
one without, of PCOPY2's source, and of M420's two derived planes, in iteration order and reduced modulo 2^32; byte i of a
row is at its address plus i. And of every command: a flip reverses each source plane by its own height, and no
destination plane, but where the command has no source it reverses each destination plane. -/
def Obligations.RowAddresses : Prop :=
  (∀ (i : Instr) (t : Tables) (L : CmdRegs) (g : Geometry) (k : Nat) (p : Plane), g.flip = true →
    let j := (ruleOf i).job t L g
    let stored := (ruleOf i).job t L { g with flip := false }
    (j.srcs[k]? = some p → ∃ q, stored.srcs[k]? = some q ∧ q.rows = p.rows ∧
      ∀ r < p.rows, p.row r = q.row (p.rows - 1 - r)) ∧
    (j.srcs ≠ [] → j.dsts[k]? = some p → ∃ q, stored.dsts[k]? = some q ∧ q.rows = p.rows ∧ ∀ r, p.row r = q.row r) ∧
    (j.srcs = [] → j.dsts[k]? = some p → ∃ q, stored.dsts[k]? = some q ∧ q.rows = p.rows ∧
      ∀ r < p.rows, p.row r = q.row (p.rows - 1 - r))) ∧
  (∀ (p : Plane) (r i : Nat), (p.byteAddr r i).toNat = ((p.row r).toNat + i) % 2 ^ 32) ∧
  ∀ (L : CmdRegs) (g : Geometry) (p : PlaneId) (rows bytes r : Nat),
    let k := if g.flip then rows - 1 - r else r
    let S := sext32 L.src0.stride
    (srcPlane L g p rows bytes).row r =
      BitVec.ofInt 32 ((L.addrOf p).toNat + (k : Int) * sext32 (L.plane p).stride) ∧
    (dstPlane L p rows bytes).row r =
      BitVec.ofInt 32 ((L.addrOf p).toNat + (r : Int) * sext32 (L.plane p).stride) ∧
    (fillPlane L g p rows bytes).row r =
      BitVec.ofInt 32 ((L.addrOf p).toNat + (k : Int) * sext32 (L.plane p).stride) ∧
    (srcPlaneTwoStride L g rows bytes).row r =
      BitVec.ofInt 32 (L.src0.addr.toNat + ((k + 1) / 2 : Nat) * S + (k / 2 : Nat) * sext32 L.src0Stride2) ∧
    (srcPlaneM420Y L g rows bytes).row r =
      BitVec.ofInt 32 (L.src0.addr.toNat + (3 * (k / 2) + k % 2 : Nat) * S) ∧
    (srcPlaneM420UV L g rows bytes).row r = BitVec.ofInt 32 (L.src0.addr.toNat + (3 * k + 2 : Nat) * S)

/-- R149: a single-stride plane that flips has iteration row r at the base advanced to the last row plus r times the
negated stride; every plane that flips, of two strides or of M420's too, has stored row rows-1-r there. And (R171) PCOPY2's
rows with two equal strides are PCOPY's. -/
def Obligations.FlippedRowsArePointerForm : Prop :=
  (∀ (L : CmdRegs) (g : Geometry) (p : PlaneId) (rows bytes r : Nat), g.flip = true → r < rows →
    let stored : Geometry := { g with flip := false }
    (srcPlane L g p rows bytes).row r =
      BitVec.ofInt 32 (((L.addrOf p).toNat + ((rows - 1 : Nat) : Int) * sext32 (L.plane p).stride) +
        (r : Int) * -sext32 (L.plane p).stride) ∧
    (srcPlaneTwoStride L g rows bytes).row r = (srcPlaneTwoStride L stored rows bytes).row (rows - 1 - r) ∧
    (srcPlaneM420Y L g rows bytes).row r = (srcPlaneM420Y L stored rows bytes).row (rows - 1 - r) ∧
    (srcPlaneM420UV L g rows bytes).row r = (srcPlaneM420UV L stored rows bytes).row (rows - 1 - r)) ∧
  ∀ (L : CmdRegs) (g : Geometry) (rows bytes r : Nat), L.src0Stride2 = L.src0.stride →
    (srcPlaneTwoStride L g rows bytes).row r = (srcPlane L g .src0 rows bytes).row r

/-! ## Plane operations (spec/42_plane_ops.md) -/

/-- R170. -/
def Obligations.PcopyCopiesEachByte : Prop :=
  ∀ s : State, RuleHolds .pcopy 0x00000001 [.src0, .dst0] s fun t =>
    (∀ r < s.geo.h, ∀ i < s.geo.w, t.byte (s.dstAddr .dst0 r i) = s.srcByte .src0 s.geo.h r i) ∧
    ∀ a, NotStored s .dst0 s.geo.h s.geo.w a → t.byte a = s.byte a

/-- R171: stored row k of the source is at SRC0_ADDR + ceil(k/2)*S1 + floor(k/2)*S2. -/
def Obligations.Pcopy2CopiesTwoStrideRows : Prop :=
  ∀ s : State, RuleHolds .pcopy2 0x00000002 [.src0, .dst0] s fun t =>
    (∀ r < s.geo.h, ∀ i < s.geo.w, t.byte (s.dstAddr .dst0 r i) =
      s.byte (toAddress (storedRowTwoStride s.command.src0.addr (sext32 s.command.src0.stride)
        (sext32 s.command.src0Stride2) (iterationRow s.geo.flip s.geo.h r)) + BitVec.ofNat 32 i)) ∧
    ∀ a, NotStored s .dst0 s.geo.h s.geo.w a → t.byte a = s.byte a

/-- R172. -/
def Obligations.PmirrorReversesEachRow : Prop :=
  ∀ s : State, RuleHolds .pmirror 0x00000003 [.src0, .dst0] s fun t =>
    (∀ r < s.geo.h, ∀ i < s.geo.w, t.byte (s.dstAddr .dst0 r i) = s.srcByte .src0 s.geo.h r (s.geo.w - 1 - i)) ∧
    ∀ a, NotStored s .dst0 s.geo.h s.geo.w a → t.byte a = s.byte a

/-- R173: every byte of every row is FILL[7:0], flipped or not (R147). -/
def Obligations.PsetFillsThePlane : Prop :=
  ∀ s : State, RuleHolds .pset 0x00000004 [.dst0] s fun t =>
    (∀ r < s.geo.h, ∀ i < s.geo.w, t.byte (s.dstAddr .dst0 r i) = s.command.fill.extractLsb' 0 8) ∧
    ∀ a, NotStored s .dst0 s.geo.h s.geo.w a → t.byte a = s.byte a

/-- R174. -/
def Obligations.Psplit2SeparatesTheStreams : Prop :=
  ∀ s : State, RuleHolds .psplit2 0x00000005 [.src0, .dst0, .dst1] s fun t =>
    (∀ r < s.geo.h, ∀ i < s.geo.w,
      t.byte (s.dstAddr .dst0 r i) = s.srcByte .src0 s.geo.h r (2 * i) ∧
      t.byte (s.dstAddr .dst1 r i) = s.srcByte .src0 s.geo.h r (2 * i + 1)) ∧
    ∀ a, NotStored s .dst0 s.geo.h s.geo.w a → NotStored s .dst1 s.geo.h s.geo.w a → t.byte a = s.byte a

/-! ## Planar YUV conversions (spec/43_yuv_planar.md) -/

/-- R190. -/
def Obligations.I420CopyCopiesThreePlanes : Prop :=
  ∀ s : State, RuleHolds .i420copy 0x00000010 [.src0, .src1, .src2, .dst0, .dst1, .dst2] s fun t =>
    (∀ r < s.geo.h, ∀ x < s.geo.w, t.byte (s.dstAddr .dst0 r x) = s.srcByte .src0 s.geo.h r x) ∧
    (∀ j < s.geo.ch, ∀ i < s.geo.cw,
      t.byte (s.dstAddr .dst1 j i) = s.srcByte .src1 s.geo.ch j i ∧
      t.byte (s.dstAddr .dst2 j i) = s.srcByte .src2 s.geo.ch j i) ∧
    ∀ a, NotStoredI420 s a → t.byte a = s.byte a

/-- R191: the chroma planes are mirrored over the chroma width. -/
def Obligations.I420MirrorMirrorsThreePlanes : Prop :=
  ∀ s : State, RuleHolds .i420mirror 0x00000011 [.src0, .src1, .src2, .dst0, .dst1, .dst2] s fun t =>
    (∀ r < s.geo.h, ∀ x < s.geo.w, t.byte (s.dstAddr .dst0 r x) = s.srcByte .src0 s.geo.h r (s.geo.w - 1 - x)) ∧
    (∀ j < s.geo.ch, ∀ i < s.geo.cw,
      t.byte (s.dstAddr .dst1 j i) = s.srcByte .src1 s.geo.ch j (s.geo.cw - 1 - i) ∧
      t.byte (s.dstAddr .dst2 j i) = s.srcByte .src2 s.geo.ch j (s.geo.cw - 1 - i)) ∧
    ∀ a, NotStoredI420 s a → t.byte a = s.byte a

/-- R192. -/
def Obligations.I420RectFillsThreePlanes : Prop :=
  ∀ s : State, RuleHolds .i420rect 0x00000012 [.dst0, .dst1, .dst2] s fun t =>
    (∀ r < s.geo.h, ∀ x < s.geo.w, t.byte (s.dstAddr .dst0 r x) = s.command.fill.extractLsb' 0 8) ∧
    (∀ j < s.geo.ch, ∀ i < s.geo.cw,
      t.byte (s.dstAddr .dst1 j i) = s.command.fill.extractLsb' 8 8 ∧
      t.byte (s.dstAddr .dst2 j i) = s.command.fill.extractLsb' 16 8) ∧
    ∀ a, NotStoredI420 s a → t.byte a = s.byte a

/-- R193. -/
def Obligations.I422ToI420AveragesChromaRows : Prop :=
  ∀ s : State, RuleHolds .i422toi420 0x00000013 [.src0, .src1, .src2, .dst0, .dst1, .dst2] s fun t =>
    (∀ r < s.geo.h, ∀ x < s.geo.w, t.byte (s.dstAddr .dst0 r x) = s.srcByte .src0 s.geo.h r x) ∧
    (∀ j < s.geo.ch, ∀ i < s.geo.cw,
      t.byte (s.dstAddr .dst1 j i) =
        avg2 (s.srcByte .src1 s.geo.h (2 * j) i) (s.srcByte .src1 s.geo.h (min (2 * j + 1) (s.geo.h - 1)) i) ∧
      t.byte (s.dstAddr .dst2 j i) =
        avg2 (s.srcByte .src2 s.geo.h (2 * j) i) (s.srcByte .src2 s.geo.h (min (2 * j + 1) (s.geo.h - 1)) i)) ∧
    ∀ a, NotStoredI420 s a → t.byte a = s.byte a

/-- R194, R195: NV12 takes chroma from SRC1; M420 takes luma rows 3*floor(k/2) + (k mod 2) and chroma rows 3j + 2 of the
one buffer at SRC0, SRC1 playing no part. U is the first byte of each pair. -/
def Obligations.Nv420ToI420SplitsChroma : Prop :=
  (∀ s : State, RuleHolds (.nv420toi420 .nv12) 0x00000014 [.src0, .src1, .dst0, .dst1, .dst2] s fun t =>
    (∀ r < s.geo.h, ∀ x < s.geo.w, t.byte (s.dstAddr .dst0 r x) = s.srcByte .src0 s.geo.h r x) ∧
    (∀ j < s.geo.ch, ∀ i < s.geo.cw,
      t.byte (s.dstAddr .dst1 j i) = s.srcByte .src1 s.geo.ch j (2 * i) ∧
      t.byte (s.dstAddr .dst2 j i) = s.srcByte .src1 s.geo.ch j (2 * i + 1)) ∧
    ∀ a, NotStoredI420 s a → t.byte a = s.byte a) ∧
  ∀ s : State, RuleHolds (.nv420toi420 .m420) 0x00001014 [.src0, .dst0, .dst1, .dst2] s fun t =>
    let row := fun n : Nat => toAddress (s.command.src0.addr.toNat + (n : Int) * sext32 s.command.src0.stride)
    let k := fun r => iterationRow s.geo.flip s.geo.h r
    let c := fun j => iterationRow s.geo.flip s.geo.ch j
    (∀ r < s.geo.h, ∀ x < s.geo.w,
      t.byte (s.dstAddr .dst0 r x) = s.byte (row (3 * (k r / 2) + k r % 2) + BitVec.ofNat 32 x)) ∧
    (∀ j < s.geo.ch, ∀ i < s.geo.cw,
      t.byte (s.dstAddr .dst1 j i) = s.byte (row (3 * c j + 2) + BitVec.ofNat 32 (2 * i)) ∧
      t.byte (s.dstAddr .dst2 j i) = s.byte (row (3 * c j + 2) + BitVec.ofNat 32 (2 * i + 1))) ∧
    ∀ a, NotStoredI420 s a → t.byte a = s.byte a

/-- R196: byte offsets (yoff, uoff, voff) are ((0, 2), 1, 3) for YUYV and ((1, 3), 0, 2) for UYVY (R129). -/
def Obligations.P422ToI420DeinterleavesMacropixels : Prop :=
  ∀ (s : State) (o : Yuv422Order),
    let y0 := match o with | .yuyv => 0 | .uyvy => 1
    let uo := match o with | .yuyv => 1 | .uyvy => 0
    let vo := match o with | .yuyv => 3 | .uyvy => 2
    RuleHolds (.p422toi420 o) (match o with | .yuyv => 0x00000015 | .uyvy => 0x00000115)
        [.src0, .dst0, .dst1, .dst2] s fun t =>
      (∀ r < s.geo.h, ∀ x < s.geo.w,
        t.byte (s.dstAddr .dst0 r x) = s.srcByte .src0 s.geo.h r (4 * (x / 2) + (2 * (x % 2) + y0))) ∧
      (∀ j < s.geo.ch, ∀ i < s.geo.cw,
        t.byte (s.dstAddr .dst1 j i) = avg2 (s.srcByte .src0 s.geo.h (2 * j) (4 * i + uo))
          (s.srcByte .src0 s.geo.h (min (2 * j + 1) (s.geo.h - 1)) (4 * i + uo)) ∧
        t.byte (s.dstAddr .dst2 j i) = avg2 (s.srcByte .src0 s.geo.h (2 * j) (4 * i + vo))
          (s.srcByte .src0 s.geo.h (min (2 * j + 1) (s.geo.h - 1)) (4 * i + vo))) ∧
      ∀ a, NotStoredI420 s a → t.byte a = s.byte a

/-! ## YUV to RGB32 (spec/44_yuv_to_rgb.md) -/

/-- The word of a YUV to RGB32 command: `op | DORD << 10` (R211-R214). -/
def dordWord (op : Nat) (o : ChanOrder) : Word := BitVec.ofNat 32 (op + o.code * 2 ^ 10)

/-- Every pixel of an RGB32 destination is the given colour in the given order, and no other byte changes (R210). -/
def Rgb32Pixels (s t : State) (o : ChanOrder) (color : Nat → Nat → Pixel) : Prop :=
  (∀ r < s.geo.h, ∀ x < s.geo.w, ∀ c : Lane,
    t.byte (s.dstAddr .dst0 r (4 * x + ChanOrder.offset o c)) = (color r x).lane c) ∧
  ∀ a, NotStored s .dst0 s.geo.h (4 * s.geo.w) a → t.byte a = s.byte a

/-- R211, R210. -/
def Obligations.I420ToRgb32SharesChroma : Prop :=
  ∀ (s : State) (o : ChanOrder), RuleHolds (.i420torgb32 o) (dordWord 0x20 o) [.src0, .src1, .src2, .dst0] s fun t =>
    Rgb32Pixels s t o fun r x => yuv2rgb s.plat.tables (s.srcByte .src0 s.geo.h r x)
      (s.srcByte .src1 s.geo.ch (r / 2) (x / 2)) (s.srcByte .src2 s.geo.ch (r / 2) (x / 2))

/-- R212, R210. -/
def Obligations.I422ToRgb32SharesChromaColumns : Prop :=
  ∀ (s : State) (o : ChanOrder), RuleHolds (.i422torgb32 o) (dordWord 0x21 o) [.src0, .src1, .src2, .dst0] s fun t =>
    Rgb32Pixels s t o fun r x => yuv2rgb s.plat.tables (s.srcByte .src0 s.geo.h r x)
      (s.srcByte .src1 s.geo.h r (x / 2)) (s.srcByte .src2 s.geo.h r (x / 2))

/-- R213, R210. -/
def Obligations.I444ToRgb32ConvertsEachPixel : Prop :=
  ∀ (s : State) (o : ChanOrder), RuleHolds (.i444torgb32 o) (dordWord 0x22 o) [.src0, .src1, .src2, .dst0] s fun t =>
    Rgb32Pixels s t o fun r x => yuv2rgb s.plat.tables (s.srcByte .src0 s.geo.h r x)
      (s.srcByte .src1 s.geo.h r x) (s.srcByte .src2 s.geo.h r x)

/-- R214, R210: the luma sample with neutral chroma. -/
def Obligations.I400ToRgb32UsesNeutralChroma : Prop :=
  ∀ (s : State) (o : ChanOrder), RuleHolds (.i400torgb32 o) (dordWord 0x23 o) [.src0, .dst0] s fun t =>
    Rgb32Pixels s t o fun r x => yuv2rgb s.plat.tables (s.srcByte .src0 s.geo.h r x) 128 128

/-! ## Packed RGB (spec/45_rgb_pack.md, spec/46_rgb_to_yuv.md) -/

/-- The word of a command with an RGB32 source and no other free field: `op | SORD << 8`. -/
def sordWord (op : Nat) (o : ChanOrder) : Word := BitVec.ofNat 32 (op + o.code * 2 ^ 8)

/-- Every pixel of a 16-bit destination is the given value, low byte first, and no other byte changes (R122). -/
def Rgb16Pixels (s t : State) (pack : Nat → Nat → BitVec 16) : Prop :=
  (∀ r < s.geo.h, ∀ x < s.geo.w,
    t.byte (s.dstAddr .dst0 r (2 * x)) = (pack r x).extractLsb' 0 8 ∧
    t.byte (s.dstAddr .dst0 r (2 * x + 1)) = (pack r x).extractLsb' 8 8) ∧
  ∀ a, NotStored s .dst0 s.geo.h (2 * s.geo.w) a → t.byte a = s.byte a

/-- R231, R232, R233. -/
def Obligations.Rgb32NarrowsTo16Bits : Prop :=
  ∀ (s : State) (o : ChanOrder),
    (RuleHolds (.rgb32torgb565 o) (sordWord 0x30 o) [.src0, .dst0] s fun t =>
      Rgb16Pixels s t fun r x => pack565 (s.srcPixel32 o r x)) ∧
    (RuleHolds (.rgb32toargb1555 o) (sordWord 0x31 o) [.src0, .dst0] s fun t =>
      Rgb16Pixels s t fun r x => pack1555 (s.srcPixel32 o r x)) ∧
    RuleHolds (.rgb32toargb4444 o) (sordWord 0x32 o) [.src0, .dst0] s fun t =>
      Rgb16Pixels s t fun r x => pack4444 (s.srcPixel32 o r x)

/-- R234: bytes B, G, R in layout RGB24 and R, G, B in layout RAW (R128); alpha is dropped. -/
def Obligations.Rgb32ToRgb24DropsAlpha : Prop :=
  ∀ (s : State) (o : ChanOrder) (l : Rgb24Layout),
    RuleHolds (.rgb32torgb24 o l) (BitVec.ofNat 32 (0x38 + o.code * 2 ^ 8 + l.code * 2 ^ 10)) [.src0, .dst0] s fun t =>
      (∀ r < s.geo.h, ∀ x < s.geo.w,
        let q := s.srcPixel32 o r x
        t.byte (s.dstAddr .dst0 r (3 * x)) = (match l with | .rgb24 => q.b | .raw => q.r) ∧
        t.byte (s.dstAddr .dst0 r (3 * x + 1)) = q.g ∧
        t.byte (s.dstAddr .dst0 r (3 * x + 2)) = (match l with | .rgb24 => q.r | .raw => q.b)) ∧
      ∀ a, NotStored s .dst0 s.geo.h (3 * s.geo.w) a → t.byte a = s.byte a

/-- R235, R130: every channel from the 24-bit pixel, alpha 255. -/
def Obligations.Rgb24ToRgb32FillsAlpha : Prop :=
  ∀ (s : State) (l : Rgb24Layout) (o : ChanOrder),
    RuleHolds (.rgb24torgb32 l o) (BitVec.ofNat 32 (0x39 + l.code * 2 ^ 8 + o.code * 2 ^ 10)) [.src0, .dst0] s fun t =>
      Rgb32Pixels s t o fun r x =>
        { b := s.srcByte .src0 s.geo.h r (3 * x + match l with | .rgb24 => 0 | .raw => 2)
          g := s.srcByte .src0 s.geo.h r (3 * x + 1)
          r := s.srcByte .src0 s.geo.h r (3 * x + match l with | .rgb24 => 2 | .raw => 0)
          a := 255 }

/-- R236, in place or not. -/
def Obligations.Rgb32ReorderPermutesChannels : Prop :=
  ∀ (s : State) (o d : ChanOrder),
    RuleHolds (.rgb32reorder o d) (BitVec.ofNat 32 (0x3A + o.code * 2 ^ 8 + d.code * 2 ^ 10)) [.src0, .dst0] s fun t =>
      Rgb32Pixels s t d fun r x => s.srcPixel32 o r x

/-- R250: `RGB2Y` of each pixel's R, G and B. -/
def Obligations.Rgb32ToI400IsLuma : Prop :=
  ∀ (s : State) (o : ChanOrder), RuleHolds (.rgb32toi400 o) (sordWord 0x40 o) [.src0, .dst0] s fun t =>
    (∀ r < s.geo.h, ∀ x < s.geo.w,
      t.byte (s.dstAddr .dst0 r x) =
        rgb2y (s.srcPixel32 o r x).r (s.srcPixel32 o r x).g (s.srcPixel32 o r x).b) ∧
    ∀ a, NotStored s .dst0 s.geo.h s.geo.w a → t.byte a = s.byte a

/-- R251: chroma from the truncating average of the 2x2 block, last row and column replicated; average first, transform
second. -/
def Obligations.Rgb32ToI420AveragesBlocks : Prop :=
  ∀ (s : State) (o : ChanOrder),
    let pix := s.srcPixel32 o
    let r1 := fun j => min (2 * j + 1) (s.geo.h - 1)
    let x1 := fun i => min (2 * i + 1) (s.geo.w - 1)
    let avg := fun (c : Lane) j i => avg4 ((pix (2 * j) (2 * i)).lane c) ((pix (2 * j) (x1 i)).lane c)
      ((pix (r1 j) (2 * i)).lane c) ((pix (r1 j) (x1 i)).lane c)
    RuleHolds (.rgb32toi420 o) (sordWord 0x41 o) [.src0, .dst0, .dst1, .dst2] s fun t =>
      (∀ r < s.geo.h, ∀ x < s.geo.w,
        t.byte (s.dstAddr .dst0 r x) = rgb2y (pix r x).r (pix r x).g (pix r x).b) ∧
      (∀ j < s.geo.ch, ∀ i < s.geo.cw,
        t.byte (s.dstAddr .dst1 j i) = rgb2u (avg .r j i) (avg .g j i) (avg .b j i) ∧
        t.byte (s.dstAddr .dst2 j i) = rgb2v (avg .r j i) (avg .g j i) (avg .b j i)) ∧
      ∀ a, NotStoredI420 s a → t.byte a = s.byte a

/-! ## Colour arithmetic (spec/40_colormath.md) -/

/-- Addition clamped to s16 (R111). -/
def satAdd16 (a b : Int) : Int := max (-32768) (min 32767 (a + b))

/-- R110: for every value of the tables, each lane is the floor of the exact sum of its three entries over 64, clamped to
[0, 255]. R111: with the default tables, accumulating in s16 with saturating adds, (U + V) then + Y, gives the same lanes
for all 2^24 inputs. (The default tables are the spec's of R43, log entry 4, and the spec derives the second clause from
R42.) -/
def Obligations.SaturatingAccumulatorAgrees : Prop :=
  (∀ (t : Tables) (y u v : Byte),
    let ty := t.ytab[y.toNat]'y.isLt
    let tu := t.utab[u.toNat]'u.isLt
    let tv := t.vtab[v.toNat]'v.isLt
    let exact := fun (q : Byte) (a b c : BitVec 16) =>
      (q.toNat : Int) = max 0 (min 255 ((a.toInt + b.toInt + c.toInt) / 64))
    let q := yuv2rgb t y u v
    exact q.b ty.b tu.b tv.b ∧ exact q.g ty.g tu.g tv.g ∧ exact q.r ty.r tu.r tv.r ∧ exact q.a ty.a tu.a tv.a) ∧
  ∀ y u v : Byte,
    let ty := tableRow defaultTables.ytab y
    let tu := tableRow defaultTables.utab u
    let tv := tableRow defaultTables.vtab v
    let lane := fun a b c : BitVec 16 => sat8 (asr (satAdd16 (satAdd16 b.toInt c.toInt) a.toInt) 6)
    yuv2rgb defaultTables y u v =
      { b := lane ty.b tu.b tv.b, g := lane ty.g tu.g tv.g, r := lane ty.r tu.r tv.r, a := lane ty.a tu.a tv.a }

/-- R112: with the default tables, alpha is 255; neutral chroma contributes nothing to the colours, so that they are
equal: 0 up to y = 16, 255 from y = 236, the shifted table entry between, and 254 at y = 235. (The tables are the spec's
default of R43, log entry 4, and the spec derives these consequences from them.) -/
def Obligations.DefaultTableConsequences : Prop :=
  (∀ y u v : Byte, (yuv2rgb defaultTables y u v).a = 255) ∧
  tableRow defaultTables.utab 128 = ⟨0, 0, 0, 16383⟩ ∧ tableRow defaultTables.vtab 128 = ⟨0, 0, 0, 0⟩ ∧
  (∀ y : Byte,
    let q := yuv2rgb defaultTables y 128 128
    let e := (tableRow defaultTables.ytab y).b.toInt
    q.g = q.b ∧ q.r = q.b ∧ q.b = sat8 (asr e 6) ∧ (y.toNat ≤ 16 → q.b = 0) ∧ (236 ≤ y.toNat → q.b = 255) ∧
    (16 < y.toNat → y.toNat < 236 → (q.b.toNat : Int) = e / 64)) ∧
  yuv2rgb defaultTables 235 128 128 = ⟨254, 254, 254, 255⟩

/-- R114, R115, R116, R117: the three transforms are the integer formulas, with floor division, and stay in [16, 235] or
[16, 240], so nothing wraps or clamps; and (R252(b)) equal channels have neutral chroma. (The ranges are the spec's own
derivation.) -/
def Obligations.ForwardTransformIsExact : Prop :=
  (∀ r g b : Byte,
    ((rgb2y r g b).toNat : Int) = (66 * r.toNat + 129 * g.toNat + 25 * b.toNat + 128) / 256 + 16 ∧
    ((rgb2u r g b).toNat : Int) = (-38 * r.toNat - 74 * g.toNat + 112 * b.toNat + 128) / 256 + 128 ∧
    ((rgb2v r g b).toNat : Int) = (112 * r.toNat - 94 * g.toNat - 18 * b.toNat + 128) / 256 + 128 ∧
    16 ≤ (rgb2y r g b).toNat ∧ (rgb2y r g b).toNat ≤ 235 ∧ 16 ≤ (rgb2u r g b).toNat ∧ (rgb2u r g b).toNat ≤ 240 ∧
    16 ≤ (rgb2v r g b).toNat ∧ (rgb2v r g b).toNat ≤ 240) ∧
  ∀ g : Byte, rgb2u g g g = 128 ∧ rgb2v g g g = 128

/-- R118, R119, R120, R121: the averages and the packed fields as numbers. -/
def Obligations.AveragesAndPackedFields : Prop :=
  (∀ a b c d : Byte, (avg2 a b).toNat = (a.toNat + b.toNat + 1) / 2 ∧
    (avg4 a b c d).toNat = (a.toNat + b.toNat + c.toNat + d.toNat) / 4) ∧
  ∀ p : Pixel,
    (pack565 p).toNat = p.r.toNat / 8 * 2 ^ 11 + p.g.toNat / 4 * 2 ^ 5 + p.b.toNat / 8 ∧
    (pack1555 p).toNat =
      p.a.toNat / 128 * 2 ^ 15 + p.r.toNat / 8 * 2 ^ 10 + p.g.toNat / 8 * 2 ^ 5 + p.b.toNat / 8 ∧
    (pack4444 p).toNat =
      p.a.toNat / 16 * 2 ^ 12 + p.r.toNat / 16 * 2 ^ 8 + p.g.toNat / 16 * 2 ^ 4 + p.b.toNat / 16

/-- R123-R128: each channel order's offsets are a bijection onto {0, 1, 2, 3}, with the memory bytes of R124-R127;
writing a pixel and reading it back gives the pixel, or, through a 24-bit layout, the pixel with alpha 255 (R130). -/
def Obligations.PixelLayouts : Prop :=
  (∀ (o : ChanOrder) (k : Nat), k < 4 → ∃ c : Lane, ChanOrder.offset o c = k ∧ ∀ d, ChanOrder.offset o d = k → d = c) ∧
  (∀ p : Pixel,
    (List.range 4).map (writePix32 .argb p) = [p.b, p.g, p.r, p.a] ∧
    (List.range 4).map (writePix32 .bgra p) = [p.a, p.r, p.g, p.b] ∧
    (List.range 4).map (writePix32 .abgr p) = [p.r, p.g, p.b, p.a] ∧
    (List.range 4).map (writePix32 .rgba p) = [p.a, p.b, p.g, p.r] ∧
    (List.range 3).map (writePix24 .rgb24 p) = [p.b, p.g, p.r] ∧
    (List.range 3).map (writePix24 .raw p) = [p.r, p.g, p.b]) ∧
  (∀ (o : ChanOrder) (p : Pixel), readPix32 o (writePix32 o p) = p) ∧
  ∀ (l : Rgb24Layout) (p : Pixel), readPix24 l (writePix24 l p) = { p with a := 255 }

/-- R175(a): PMIRROR from plane A to B and then from B to C, with the same width and the same positive HEIGHT, gives
C = A for every width. -/
def Obligations.MirrorTwiceRestoresThePlane : Prop :=
  ∀ s₁ t₁ s₂ t₂ : State, cleanRun .pmirror s₁ = true → exec .pmirror s₁ = .next t₁ →
    s₂.mem = t₁.mem → cleanRun .pmirror s₂ = true → exec .pmirror s₂ = .next t₂ →
    s₂.command.width = s₁.command.width → s₂.command.height = s₁.command.height → 0 < sext32 s₁.command.height →
    s₂.command.src0 = s₁.command.dst0 →
    ∀ r < s₁.geo.h, ∀ i < s₁.geo.w, t₂.byte (s₂.dstAddr .dst0 r i) = s₁.srcByte .src0 s₁.geo.h r i

/-! ## The register window (spec/10_state.md) -/

/-- R21-R30: what an aligned 32-bit read at each offset of instance k's window returns; nothing but the data read
changes (R31). (Alignment taken from the offset in the window, and which window answers where windows wrap or overlap, are
log entries 19 and 20.) -/
def Obligations.RegisterReads : Prop :=
  ∀ (s : State) (a : Word) (k : Nat) (x : CscInstance), s.windowOf a = some k → s.instances[k]? = some x →
    (a - s.windowBase k).toNat % 4 = 0 →
    ∃ v, s.busRead a .word = .next { s with readData := v } ∧
      let off := (a - s.windowBase k).toNat
      (off = 0x00 → v = s.plat.idValue) ∧
      (off = 0x04 → v = if x.irqEn then 2 else 0) ∧
      (off = 0x08 → v = (if x.inFlight.isSome then 1 else 0) + (if x.done then 2 else 0) + (if x.err then 4 else 0)) ∧
      (off = 0x0C → v = x.result) ∧ (off = 0x10 → v = x.regs.cmd) ∧ (off = 0x14 → v = x.regs.width) ∧
      (off = 0x18 → v = x.regs.height) ∧ (off = 0x1C → v = x.regs.fill) ∧
      (off = 0x20 → v = x.regs.src0.addr) ∧ (off = 0x24 → v = x.regs.src0.stride) ∧
      (off = 0x28 → v = x.regs.src0Stride2) ∧ (off = 0x30 → v = x.regs.src1.addr) ∧
      (off = 0x34 → v = x.regs.src1.stride) ∧ (off = 0x38 → v = x.regs.src2.addr) ∧
      (off = 0x3C → v = x.regs.src2.stride) ∧ (off = 0x40 → v = x.regs.dst0.addr) ∧
      (off = 0x44 → v = x.regs.dst0.stride) ∧ (off = 0x48 → v = x.regs.dst1.addr) ∧
      (off = 0x4C → v = x.regs.dst1.stride) ∧ (off = 0x50 → v = x.regs.dst2.addr) ∧
      (off = 0x54 → v = x.regs.dst2.stride) ∧ (off = 0x2C ∨ 0x58 ≤ off → v = 0)

/-- R21, R27-R32: an aligned 32-bit write at each offset of instance k's window, but CTRL's and STATUS's. A configuration
register takes the value (FILL without bits 31:24) and no other register of the instance, no latched copy of a running
command and nothing beside the instance changes; a write to a read-only register or a reserved offset changes nothing.
(Alignment taken from the offset in the window, and which window answers where windows wrap or overlap, are log entries 19
and 20.) -/
def Obligations.ConfigurationWrites : Prop :=
  ∀ (s : State) (a v : Word) (k : Nat) (x : CscInstance), s.windowOf a = some k → s.instances[k]? = some x →
    (a - s.windowBase k).toNat % 4 = 0 → (a - s.windowBase k).toNat ≠ 0x04 → (a - s.windowBase k).toNat ≠ 0x08 →
    ∃ t L, s.busWrite a .word v = .next t ∧ SameBesideInstances s t ∧
      t.instances = s.instances.set k { x with regs := L } ∧
      let off := (a - s.windowBase k).toNat
      let R := x.regs
      (off = 0x10 → L = { R with cmd := v }) ∧ (off = 0x14 → L = { R with width := v }) ∧
      (off = 0x18 → L = { R with height := v }) ∧ (off = 0x1C → L = { R with fill := v &&& 0x00FFFFFF }) ∧
      (off = 0x20 → L = { R with src0 := ⟨v, R.src0.stride⟩ }) ∧ (off = 0x24 → L = { R with src0 := ⟨R.src0.addr, v⟩ }) ∧
      (off = 0x28 → L = { R with src0Stride2 := v }) ∧
      (off = 0x30 → L = { R with src1 := ⟨v, R.src1.stride⟩ }) ∧ (off = 0x34 → L = { R with src1 := ⟨R.src1.addr, v⟩ }) ∧
      (off = 0x38 → L = { R with src2 := ⟨v, R.src2.stride⟩ }) ∧ (off = 0x3C → L = { R with src2 := ⟨R.src2.addr, v⟩ }) ∧
      (off = 0x40 → L = { R with dst0 := ⟨v, R.dst0.stride⟩ }) ∧ (off = 0x44 → L = { R with dst0 := ⟨R.dst0.addr, v⟩ }) ∧
      (off = 0x48 → L = { R with dst1 := ⟨v, R.dst1.stride⟩ }) ∧ (off = 0x4C → L = { R with dst1 := ⟨R.dst1.addr, v⟩ }) ∧
      (off = 0x50 → L = { R with dst2 := ⟨v, R.dst2.stride⟩ }) ∧ (off = 0x54 → L = { R with dst2 := ⟨R.dst2.addr, v⟩ }) ∧
      (off = 0x00 ∨ off = 0x0C ∨ off = 0x2C ∨ 0x58 ≤ off → L = R)

/-- R140, R23: a write to CTRL with SOFT_RESET = 0. With START = 1 and BUSY = 0 it is accepted: the configuration
registers are latched, BUSY is set, DONE and ERR cleared, the IRQ line low and RESULT unchanged. With BUSY = 1 the START is
ignored. With START = 0 nothing starts. In every case IRQ_EN is updated, and where nothing starts that is all, so that the
IRQ line is then DONE AND the new IRQ_EN (R35). (That the plane registers latched are the 13 of R21, where R140 counts
fifteen, is log entry 24; which window answers where windows wrap or overlap, and alignment by the offset, are log entries
20 and 19.) -/
def Obligations.CtrlWriteStartsOrIsIgnored : Prop :=
  ∀ (s : State) (a v : Word) (k : Nat) (x : CscInstance), s.windowOf a = some k → s.instances[k]? = some x →
    (a - s.windowBase k).toNat = 0x04 → v.getLsbD 2 = false →
    ∃ t y, s.busWrite a .word v = .next t ∧ SameBesideInstances s t ∧ t.instances = s.instances.set k y ∧
      (v.getLsbD 0 = true → x.inFlight = none → y.irq = false ∧
        y = { x with irqEn := v.getLsbD 1, done := false, err := false, inFlight := some ⟨x.regs, false⟩ }) ∧
      ((v.getLsbD 0 = false ∨ x.inFlight.isSome = true) →
        y = { x with irqEn := v.getLsbD 1 } ∧ y.irq = (x.done && v.getLsbD 1))

/-- R24, R35, R278: writing 1 to bit 1 or 2 of STATUS clears DONE or ERR, writing 0 has no effect, BUSY is read-only; the
IRQ line is DONE AND IRQ_EN, so clearing DONE drops it; nothing else changes. (Alignment taken from the offset in the
window, and which window answers where windows wrap or overlap, are log entries 19 and 20.) -/
def Obligations.StatusAcknowledge : Prop :=
  ∀ (s : State) (a v : Word) (k : Nat) (x : CscInstance), s.windowOf a = some k → s.instances[k]? = some x →
    (a - s.windowBase k).toNat = 0x08 →
    ∃ t y, s.busWrite a .word v = .next t ∧ SameBesideInstances s t ∧ t.instances = s.instances.set k y ∧
      y = { x with done := x.done && !v.getLsbD 1, err := x.err && !v.getLsbD 2 } ∧
      y.irq = (x.done && !v.getLsbD 1 && x.irqEn)

/-- R302: a write to CTRL with SOFT_RESET = 1 gives every register of the instance its reset value and aborts the command
in flight, START being ignored. Idle, or with an illegal or invalid command in flight, which accesses no memory (R275), it
changes nothing else. Of an aborted command, a byte outside DF is unchanged, and a Mapped byte of DF ends with its old
value or the rule's, where nothing else made it unspecified. (IRQ_EN written 1 in the same write is the model's choice, log
entry 13; that a DF byte that is not Mapped is unchanged, and that a source byte that is not Mapped contributes any value,
are log entry 12; alignment by the offset and which window answers are log entries 19 and 20.) -/
def Obligations.SoftResetAborts : Prop :=
  ∀ (s : State) (a v : Word) (n : Nat) (x : CscInstance), s.windowOf a = some n → s.instances[n]? = some x →
    (a - s.windowBase n).toNat = 0x04 → v.getLsbD 2 = true →
    ∃ t, s.busWrite a .word v = .next t ∧ t.instances[n]? = some CscInstance.reset ∧ t.plat = s.plat ∧
      t.agenda = s.agenda ∧ t.nInstances = s.nInstances ∧
      ((∀ f, x.inFlight = some f → jobOf s.plat.tables f.regs = none) →
        SameBesideInstances s t ∧ t.instances = s.instances.set n CscInstance.reset) ∧
      ∀ f j, x.inFlight = some f → jobOf s.plat.tables f.regs = some j →
        (∀ b, Outside j.dsts b ∨ s.mapped b = false → t.byte b = s.byte b) ∧
        ((s.focus n).unspecified j = false → ∃ src : SourceBytes,
          (∀ (k : Nat) (p : Plane) (r b : Nat), j.srcs[k]? = some p → s.mapped (p.byteAddr r b) = true →
            s.hiddenFromBlock (p.byteAddr r b) = false → src k r b = s.byte (p.byteAddr r b)) ∧
          ∀ (k : Nat) (p : Plane) (r b : Nat), j.dsts[k]? = some p → r < p.rows → b < p.bytes →
            s.mapped (p.byteAddr r b) = true →
            t.byte (p.byteAddr r b) = s.byte (p.byteAddr r b) ∨ t.byte (p.byteAddr r b) = j.value src k r b)

/-- R31, I12: a window access that is not a naturally aligned 32-bit one is refused under its own name, and an aligned
32-bit one is always carried out. (That an access is aligned when its offset in the window is, which is R31's natural
alignment where CSC_BASE is a multiple of 4, is log entry 19; that it is a window access when its first byte is in a window
is log entry 17; which window answers where windows wrap or overlap is log entry 20.) -/
def Obligations.WindowAccessRefused : Prop :=
  ∀ (s : State) (a v : Word) (size : AccessSize) (k : Nat), s.windowOf a = some k →
    ((size ≠ .word ∨ (a - s.windowBase k).toNat % 4 ≠ 0) →
      s.busRead a size = .refused (.windowAccess a) ∧ s.busWrite a size v = .refused (.windowAccess a)) ∧
    ((a - s.windowBase k).toNat % 4 = 0 →
      (∃ t, s.busRead a .word = .next t) ∧ ∃ t, s.busWrite a .word v = .next t)

/-! ## The host beside a running command (spec/20_memory.md R63, R72, R73, R75) -/

/-- R72: while an instance's command runs, a byte the host stores into its SF or DF ends with the host's value or a
free one, and the command then completes with every destination byte free; a byte of DF the host reads is free. Its
footprint being Mapped it completes with 0 (R153, R154; that the host's store leaves RESULT as it would be is log entry
11). (How the free values are drawn is log entry 1, and that the marked command's bytes are all free, whenever it then
runs, is log entry 14.) -/
def Obligations.HostAccessWhileRunning : Prop :=
  ∀ (s : State) (n : Nat) (x : CscInstance) (f : InFlight) (j : Job) (a : Word) (v : Byte),
    s.instances[n]? = some x → x.inFlight = some f → jobOf s.plat.tables f.regs = some j → s.mapped a = true →
    ((j.reads a = true ∨ j.writes a = true) → s.footprintMapped j = true →
      ∃ t u, s.busWrite a .byte (v.zeroExtend 32) = .next t ∧
        t.instances[n]? = some { x with inFlight := some { f with tainted := true } } ∧
        (t.byte a = v ∨ t.byte a = freeByte s.freeCount a.toNat) ∧
        (t.focus n).runCurrent = .next u ∧ u.instances[n]? = some (x.complete 0) ∧
        ∀ b, j.writes b = true → u.byte b = freeByte t.freeCount b.toNat) ∧
    (j.writes a = true → ∃ t, s.busRead a .byte = .next t ∧
      t.readData = (freeByte s.freeCount a.toNat).zeroExtend 32)

/-- R75: a valid command that completes while a command of another instance, n, is in flight, whose footprint its
destination meets or the other way round: every destination byte of the one is free, and when the other one runs every
destination byte of it is free too. Their footprints being Mapped both complete with 0 (R153, R154; that the conflict
leaves RESULT as it would be is log entry 11). (That two commands in flight together run at the same time is log entry
15.) -/
def Obligations.ConcurrentCommandsLeaveFreeBytes : Prop :=
  ∀ (i : Instr) (s : State) (n : Nat) (x : CscInstance) (f : InFlight) (k : Job), (ruleOf i).valid s.command = true →
    s.footprintMapped ((ruleOf i).jobOn s) = true → n ≠ s.current → s.instances[n]? = some x → x.inFlight = some f →
    jobOf s.plat.tables f.regs = some k → ((ruleOf i).jobOn s).conflictsWith k = true →
    ∃ t, exec i s = .next t ∧ t.inst = s.inst.complete 0 ∧
      (∀ d ∈ ((ruleOf i).jobOn s).dsts, ∀ a, d.covers a → t.byte a = freeByte s.freeCount a.toNat) ∧
      t.instances[n]? = some { x with inFlight := some { f with tainted := true } } ∧
      (s.footprintMapped k = true → ∃ u, (t.focus n).runCurrent = .next u ∧ u.instances[n]? = some (x.complete 0) ∧
        ∀ d ∈ k.dsts, ∀ a, d.covers a → u.byte a = freeByte t.freeCount a.toNat)

/-- R63, R64, R73(1), R73(2): a host access to Mapped memory, of any alignment and wrapping at 2^32 (log entry 17), is
little-endian. A store to bytes that are in no running command's SF or DF puts bits 8i+7:8i at the i-th address, changes no
other byte, no instance and no parameter, and, with COHERENT true, is what the block then reads. A load of bytes that are in
no running command's DF and not hidden from the host returns them, the i-th in bits 8i+7:8i and the bits above 0, and
changes nothing but the data read and the number of the next draw; a 32-bit load of an ARGB pixel gives
A<<24 | R<<16 | G<<8 | B. -/
def Obligations.HostAccessesAreLittleEndian : Prop :=
  ∀ (s : State) (a : Word) (size : AccessSize), s.windowOf a = none →
    (∀ i < size.bytes, s.mapped (a + BitVec.ofNat 32 i) = true) →
    (∀ v : Word, (∀ i < size.bytes, ∀ j ∈ s.jobs, j.reads (a + BitVec.ofNat 32 i) = false ∧
        j.writes (a + BitVec.ofNat 32 i) = false) →
      ∃ t, s.busWrite a size v = .next t ∧ t.instances = s.instances ∧ t.plat = s.plat ∧ t.agenda = s.agenda ∧
      (∀ i < size.bytes, t.byte (a + BitVec.ofNat 32 i) = v.extractLsb' (8 * i) 8 ∧
        (s.plat.coherent = true → t.blockRead (a + BitVec.ofNat 32 i) = v.extractLsb' (8 * i) 8)) ∧
      ∀ b, (∀ i < size.bytes, a + BitVec.ofNat 32 i ≠ b) → t.byte b = s.byte b) ∧
    ((∀ i < size.bytes, s.hiddenFromHost (a + BitVec.ofNat 32 i) = false ∧
        ∀ j ∈ s.jobs, j.writes (a + BitVec.ofNat 32 i) = false) →
      ∃ (d : Word) (n : Nat), s.busRead a size = .next { s with readData := d, freeCount := n } ∧
        d.toNat < 2 ^ (8 * size.bytes) ∧
        (∀ i < size.bytes, d.extractLsb' (8 * i) 8 = s.byte (a + BitVec.ofNat 32 i)) ∧
        ∀ p : Pixel, size = .word → (∀ i < 4, s.byte (a + BitVec.ofNat 32 i) = writePix32 .argb p i) →
          d.toNat = p.a.toNat * 2 ^ 24 + p.r.toNat * 2 ^ 16 + p.g.toNat * 2 ^ 8 + p.b.toNat)

/-- R73, R304, I24, with COHERENT false: what a byte reads as on the side that has not been shown it, and what a
maintenance ends. The host's store to a Mapped byte hides it from the block. A valid command with a Mapped footprint
completes with 0; each source byte hidden from the block counts as a free value, and every byte of DF is hidden from the
host. A hidden byte the host reads is free. After a maintenance nothing is hidden and a byte reads as it stands in memory,
a free value where both sides had stored; a command in flight whose footprint holds a byte that was hidden from the block
is marked, as by a host store (R72). (How the bytes are tracked, one maintenance for all of memory, and the last two
points are the model's choice, log entry 16.) -/
def Obligations.HiddenBytesAreFreeUntilMaintenance : Prop :=
  ∀ s : State, s.plat.coherent = false →
    (∀ (a : Word) (v : Byte), s.mapped a = true → ∃ t, s.busWrite a .byte (v.zeroExtend 32) = .next t ∧
      (∀ b, t.hiddenFromBlock b = (s.hiddenFromBlock b || b == a)) ∧ ∀ b, t.hiddenFromHost b = s.hiddenFromHost b) ∧
    (∀ i : Instr, (ruleOf i).valid s.command = true → s.footprintMapped ((ruleOf i).jobOn s) = true →
      ∃ t, exec i s = .next t ∧ t.inst = s.inst.complete 0 ∧
        (∀ b, t.hiddenFromBlock b = s.hiddenFromBlock b ∧
          t.hiddenFromHost b = (s.hiddenFromHost b || ((ruleOf i).jobOn s).writes b)) ∧
        (s.unspecified ((ruleOf i).jobOn s) = false → ∃ src : SourceBytes,
          (∀ (k : Nat) (q : Plane) (r b : Nat), ((ruleOf i).jobOn s).srcs[k]? = some q → r < q.rows → b < q.bytes →
            src k r b = if s.hiddenFromBlock (q.byteAddr r b) then freeByte s.freeCount (q.byteAddr r b).toNat
              else s.byte (q.byteAddr r b)) ∧
          ∀ (k : Nat) (p : Plane) (r b : Nat), ((ruleOf i).jobOn s).dsts[k]? = some p → r < p.rows → b < p.bytes →
            t.byte (p.byteAddr r b) = ((ruleOf i).jobOn s).value src k r b)) ∧
    (∀ a : Word, s.mapped a = true → s.hiddenFromHost a = true → ∃ t, s.busRead a .byte = .next t ∧
      t.readData = (freeByte s.freeCount a.toNat).zeroExtend 32) ∧
    ∀ rest, s.agenda = .cacheMaintenance :: rest → ∃ t, step s = .next t ∧ t.agenda = rest ∧ t.plat = s.plat ∧
      (∀ a, t.hiddenFromBlock a = false ∧ t.hiddenFromHost a = false ∧
        t.byte a = if s.hiddenFromBlock a && s.hiddenFromHost a then freeByte s.freeCount a.toNat else s.byte a) ∧
      ∀ (n : Nat) (x : CscInstance), s.instances[n]? = some x → ∃ y, t.instances[n]? = some y ∧
        (∀ f j a, x.inFlight = some f → jobOf s.plat.tables f.regs = some j → s.hiddenFromBlock a = true →
          (j.reads a = true ∨ j.writes a = true) → y = { x with inFlight := some { f with tainted := true } }) ∧
        ((∀ f j a, x.inFlight = some f → jobOf s.plat.tables f.regs = some j → s.hiddenFromBlock a = true →
          j.reads a = false ∧ j.writes a = false) → y = x)

/-! ## Reset, progress and the invariant (spec/70_reset_and_hazards.md) -/

/-- R300: power-on reset gives every instance the reset values, an idle block and a low IRQ; the tables and the other
parameters are not reset; memory is not touched when no command was in flight. `State.reset` is such a machine. (R300 does
not say what becomes of a command in flight: that its DF, where Mapped, may change, and no other byte, is log entry 18.) -/
def Obligations.PowerOnResetValues : Prop :=
  let zero := fun x : CscInstance => x.irqEn = false ∧ x.inFlight = none ∧ x.done = false ∧ x.err = false ∧
    x.result = 0 ∧ x.irq = false ∧ x.regs = ⟨0, 0, 0, 0, ⟨0, 0⟩, 0, ⟨0, 0⟩, ⟨0, 0⟩, ⟨0, 0⟩, ⟨0, 0⟩, ⟨0, 0⟩⟩
  (∀ x ∈ State.reset.instances, zero x) ∧ State.reset.plat.idValue = 0x43534301 ∧
  ∀ (s : State) (rest : List Event), s.agenda = .powerOnReset :: rest →
    ∃ t, step s = .next t ∧ (∀ x ∈ t.instances, zero x) ∧ t.nInstances = s.nInstances ∧ t.plat = s.plat ∧
      ((∀ x ∈ s.instances, x.inFlight = none) → t.mem = s.mem) ∧
      ∀ b, ((∀ j ∈ s.jobs, j.writes b = false) ∨ s.mapped b = false) → t.byte b = s.byte b

/-- R320, R287: with nothing on the agenda, an idle machine stays as it is, and every command in flight completes after
finitely many steps. (R320 gives no number: that as many steps as there are commands in flight are enough, the agenda being
empty, is the model's choice, log entries 5 and 6.) -/
def Obligations.RunningCommandsFinish : Prop :=
  ∀ s : State, s.agenda = [] →
    (s.busyCount = 0 → step s = .next s) ∧
    ∃ t, Host.Core.run Sys2Proof.core s.busyCount s = .next t ∧ t.busyCount = 0 ∧ t.nInstances = s.nInstances

/-- R24, R270, R28, R40, R285: from every state that meets the invariant (memory in canonical form; on every instance,
BUSY excludes DONE and ERR, RESULT is a code of R270, FILL[31:24] is 0), a step that answers a next state keeps it, and
changes neither the platform's parameters, tables among them, nor the number of instances. -/
def Obligations.InvariantKeptByEveryStep : Prop :=
  ∀ s t : State, s.Inv → step s = .next t → t.Inv ∧ t.plat = s.plat ∧ t.nInstances = s.nInstances

/-- The invariant holds at reset. -/
def Obligations.ResetMeetsTheInvariant : Prop := State.reset.Inv
end

