-- ==== Sys2Proof/Laws/Footprint.lean ====
section
/-! SUPPORT. The laws of footprints: the row-level checks of Machine/Footprint.lean, said byte by byte. -/

namespace Sys2Proof.Machine

/-! ## Runs of addresses -/

theorem ByteRange.has_iff (x : ByteRange) (a : Word) : x.has a = true ↔ ∃ i < x.len, x.addr i = a := by
  simp only [ByteRange.has, decide_eq_true_eq, ByteRange.addr]
  constructor
  · intro h
    refine ⟨(a - x.base).toNat, h, ?_⟩
    rw [BitVec.ofNat_toNat, BitVec.setWidth_eq, BitVec.add_comm, BitVec.sub_add_cancel]
  · rintro ⟨i, hi, rfl⟩
    rw [show x.base + BitVec.ofNat 32 i - x.base = BitVec.ofNat 32 i by rw [BitVec.add_comm, BitVec.add_sub_cancel]]
    exact lt_of_le_of_lt (Nat.mod_le i (2 ^ 32)) hi

/-- Within one lap of the address space, two positions of a run are two addresses. -/
theorem ByteRange.addr_inj {x : ByteRange} {i k : Nat} (hx : x.len ≤ 2 ^ 32) (hi : i < x.len) (hk : k < x.len)
    (h : x.addr i = x.addr k) : i = k := by
  have h' : BitVec.ofNat 32 i = BitVec.ofNat 32 k := by
    simpa [ByteRange.addr] using h
  have := congrArg BitVec.toNat h'
  rwa [BitVec.toNat_ofNat, BitVec.toNat_ofNat, Nat.mod_eq_of_lt (lt_of_lt_of_le hi hx),
    Nat.mod_eq_of_lt (lt_of_lt_of_le hk hx)] at this

/-- Two runs overlap exactly when some address is in both. -/
theorem ByteRange.overlaps_iff (x y : ByteRange) :
    x.overlaps y = true ↔ ∃ a, x.has a = true ∧ y.has a = true := by
  simp only [ByteRange.overlaps, ByteRange.has, Bool.and_eq_true, Bool.or_eq_true, decide_eq_true_eq]
  constructor
  · rintro ⟨⟨hx, hy⟩, h | h⟩
    · exact ⟨y.base, h, by simpa using hy⟩
    · exact ⟨x.base, by simpa using hx, h⟩
  · rintro ⟨a, h1, h2⟩
    refine ⟨⟨by omega, by omega⟩, ?_⟩
    by_cases hle : (a - y.base).toNat ≤ (a - x.base).toNat
    · left
      have : y.base - x.base = (a - x.base) - (a - y.base) := by bv_omega
      rw [this, BitVec.toNat_sub_of_le (BitVec.le_def.mpr hle)]
      omega
    · right
      have : x.base - y.base = (a - y.base) - (a - x.base) := by bv_omega
      rw [this, BitVec.toNat_sub_of_le (BitVec.le_def.mpr (by omega))]
      omega

theorem allAddrs_iff (xs : List ByteRange) (ok : Word → Bool) :
    allAddrs xs ok = true ↔ ∀ x ∈ xs, ∀ i < x.len, ok (x.addr i) = true := by
  simp [allAddrs]

theorem rangesMeet_iff (xs ys : List ByteRange) :
    rangesMeet xs ys = true ↔ ∃ x ∈ xs, ∃ y ∈ ys, x.overlaps y = true := by
  simp [rangesMeet]

theorem noneTwice_iff (xs : List ByteRange) :
    noneTwice xs = true ↔ (∀ x ∈ xs, x.len ≤ 2 ^ 32) ∧ xs.Pairwise fun x y => x.overlaps y = false := by
  induction xs with
  | nil => simp [noneTwice]
  | cons x xs ih =>
    simp only [noneTwice, Bool.and_eq_true, decide_eq_true_eq, List.all_eq_true, Bool.not_eq_eq_eq_not,
      Bool.not_true, ih, List.mem_cons, forall_eq_or_imp, List.pairwise_cons]
    tauto

/-! ## Planes -/

theorem Plane.mem_ranges {p : Plane} {x : ByteRange} :
    x ∈ p.ranges ↔ ∃ r < p.rows, x = ⟨p.row r, p.bytes⟩ := by
  simp [Plane.ranges, eq_comm]

@[simp] theorem Plane.range_addr (p : Plane) (r i : Nat) :
    ByteRange.addr ⟨p.row r, p.bytes⟩ i = p.byteAddr r i := rfl

theorem Job.mem_df {j : Job} {x : ByteRange} : x ∈ j.df ↔ ∃ p ∈ j.dsts, ∃ r < p.rows, x = ⟨p.row r, p.bytes⟩ := by
  simp [Job.df, Plane.mem_ranges]

theorem Job.mem_sf {j : Job} {x : ByteRange} : x ∈ j.sf ↔ ∃ p ∈ j.srcs, ∃ r < p.rows, x = ⟨p.row r, p.bytes⟩ := by
  simp [Job.sf, Plane.mem_ranges]

/-- DF, byte by byte (R66). -/
theorem Job.writes_iff (j : Job) (a : Word) :
    j.writes a = true ↔ ∃ p ∈ j.dsts, ∃ r < p.rows, ∃ i < p.bytes, p.byteAddr r i = a := by
  simp only [Job.writes, List.any_eq_true, Job.mem_df, ByteRange.has_iff]
  constructor
  · rintro ⟨x, ⟨p, hp, r, hr, rfl⟩, i, hi, h⟩
    exact ⟨p, hp, r, hr, i, hi, h⟩
  · rintro ⟨p, hp, r, hr, i, hi, h⟩
    exact ⟨_, ⟨p, hp, r, hr, rfl⟩, i, hi, h⟩

/-- SF, byte by byte (R66). -/
theorem Job.reads_iff (j : Job) (a : Word) :
    j.reads a = true ↔ ∃ p ∈ j.srcs, ∃ r < p.rows, ∃ i < p.bytes, p.byteAddr r i = a := by
  simp only [Job.reads, List.any_eq_true, Job.mem_sf, ByteRange.has_iff]
  constructor
  · rintro ⟨x, ⟨p, hp, r, hr, rfl⟩, i, hi, h⟩
    exact ⟨p, hp, r, hr, i, hi, h⟩
  · rintro ⟨p, hp, r, hr, i, hi, h⟩
    exact ⟨_, ⟨p, hp, r, hr, rfl⟩, i, hi, h⟩

/-- With no address designated twice, a destination byte's address gives back its plane, row and byte: R68(a) fails. -/
theorem Job.position_unique {j : Job} (h : noneTwice j.df = true) {k k' : Nat} {p p' : Plane} {r r' i i' : Nat}
    (hk : j.dsts[k]? = some p) (hk' : j.dsts[k']? = some p') (hr : r < p.rows) (hr' : r' < p'.rows)
    (hi : i < p.bytes) (hi' : i' < p'.bytes) (ha : p.byteAddr r i = p'.byteAddr r' i') :
    k = k' ∧ r = r' ∧ i = i' := by
  obtain ⟨hlen, hpair⟩ := (noneTwice_iff _).mp h
  rw [Job.df, List.pairwise_flatMap] at hpair
  obtain ⟨hin, hacross⟩ := hpair
  have meet : (ByteRange.mk (p.row r) p.bytes).overlaps ⟨p'.row r', p'.bytes⟩ = true :=
    (ByteRange.overlaps_iff _ _).mpr
      ⟨p.byteAddr r i, (ByteRange.has_iff _ _).mpr ⟨i, hi, rfl⟩, (ByteRange.has_iff _ _).mpr ⟨i', hi', ha.symm⟩⟩
  have meet' : (ByteRange.mk (p'.row r') p'.bytes).overlaps ⟨p.row r, p.bytes⟩ = true :=
    (ByteRange.overlaps_iff _ _).mpr
      ⟨p.byteAddr r i, (ByteRange.has_iff _ _).mpr ⟨i', hi', ha.symm⟩, (ByteRange.has_iff _ _).mpr ⟨i, hi, rfl⟩⟩
  obtain ⟨hkl, hkp⟩ := List.getElem?_eq_some_iff.mp hk
  obtain ⟨hkl', hkp'⟩ := List.getElem?_eq_some_iff.mp hk'
  have hkk : k = k' := by
    rw [List.pairwise_iff_getElem] at hacross
    have hin1 : (ByteRange.mk (p.row r) p.bytes) ∈ j.dsts[k].ranges := by
      rw [hkp]; exact Plane.mem_ranges.mpr ⟨r, hr, rfl⟩
    have hin2 : (ByteRange.mk (p'.row r') p'.bytes) ∈ j.dsts[k'].ranges := by
      rw [hkp']; exact Plane.mem_ranges.mpr ⟨r', hr', rfl⟩
    rcases Nat.lt_trichotomy k k' with hlt | heq | hgt
    · exact nomatch meet.symm.trans (hacross k k' hkl hkl' hlt _ hin1 _ hin2)
    · exact heq
    · exact nomatch meet'.symm.trans (hacross k' k hkl' hkl hgt _ hin2 _ hin1)
  subst hkk
  have hpp : p = p' := by rw [← hkp, ← hkp']
  subst hpp
  have hrr : r = r' := by
    have hrow := hin p (hkp ▸ List.getElem_mem hkl)
    rw [Plane.ranges, List.pairwise_map, List.pairwise_iff_getElem] at hrow
    rcases Nat.lt_trichotomy r r' with hlt | heq | hgt
    · have := hrow r r' (by simpa using hr) (by simpa using hr') hlt
      simp only [List.getElem_range, meet, Bool.true_eq_false] at this
    · exact heq
    · have := hrow r' r (by simpa using hr') (by simpa using hr) hgt
      simp only [List.getElem_range, meet', Bool.true_eq_false] at this
  subst hrr
  refine ⟨rfl, rfl, ?_⟩
  have hl : p.bytes ≤ 2 ^ 32 := hlen ⟨p.row r, p.bytes⟩ (Job.mem_df.mpr ⟨p, hkp ▸ List.getElem_mem hkl, r, hr, rfl⟩)
  exact ByteRange.addr_inj (x := ⟨p.row r, p.bytes⟩) hl hi hi' ha

/-! ## Stores -/

/-- A job's stores are its write positions, each with its rule's value (R66, R153). -/
theorem Job.mem_stores {j : Job} {src : SourceBytes} {w : Word × Byte} :
    w ∈ j.stores src ↔ ∃ k p r i, j.dsts[k]? = some p ∧ r < p.rows ∧ i < p.bytes ∧
      w = (p.byteAddr r i, j.value src k r i) := by
  simp only [Job.stores, List.mem_flatMap, List.mem_map, List.mem_range]
  constructor
  · rintro ⟨⟨p, k⟩, hk, r, hr, i, hi, rfl⟩
    exact ⟨k, p, r, i, List.mem_zipIdx_iff_getElem?.mp hk, hr, hi, rfl⟩
  · rintro ⟨k, p, r, i, hk, hr, hi, rfl⟩
    exact ⟨(p, k), List.mem_zipIdx_iff_getElem?.mpr hk, r, hr, i, hi, rfl⟩

/-- A store's address is in DF. -/
theorem Job.stores_in_df {j : Job} {src : SourceBytes} {w : Word × Byte} (h : w ∈ j.stores src) :
    j.writes w.1 = true := by
  obtain ⟨k, p, r, i, hk, hr, hi, rfl⟩ := Job.mem_stores.mp h
  exact (Job.writes_iff j _).mpr ⟨p, List.mem_of_getElem? hk, r, hr, i, hi, rfl⟩

/-- With no address designated twice, stores to one address store one value. -/
theorem Job.stores_value_unique {j : Job} (h : noneTwice j.df = true) {src : SourceBytes} {w w' : Word × Byte}
    (hw : w ∈ j.stores src) (hw' : w' ∈ j.stores src) (ha : w.1 = w'.1) : w = w' := by
  obtain ⟨k, p, r, i, hk, hr, hi, rfl⟩ := Job.mem_stores.mp hw
  obtain ⟨k', p', r', i', hk', hr', hi', rfl⟩ := Job.mem_stores.mp hw'
  obtain ⟨rfl, rfl, rfl⟩ := Job.position_unique h hk hk' hr hr' hi hi' ha
  exact Prod.ext ha rfl

end Sys2Proof.Machine
end

