-- ==== Sys2Proof/Laws/Memory.lean ====
section
/-! SUPPORT. The laws of system memory: a read after a write, and that every memory operation keeps the canonical form. -/

namespace Sys2Proof.Machine

@[simp] theorem Memory.read_nil (a : Nat) : Memory.read [] a = unlistedByte := rfl

theorem Memory.read_cons (c : Host.Cell) (m : Memory) (a : Nat) :
    Memory.read (c :: m) a = if c.1 = a then c.2 else Memory.read m a := rfl

theorem Memory.read_insertAt (m : Memory) (a c : Nat) (v : Byte) :
    (m.insertAt a v).read c = if c = a then v else m.read c := by
  induction m with
  | nil => simp [Memory.insertAt, Memory.read_cons, eq_comm]
  | cons d m ih =>
    obtain ⟨k, b⟩ := d
    simp only [Memory.insertAt]
    split
    · simp only [Memory.read_cons, eq_comm (a := a)]
    · split
      · subst a
        simp only [Memory.read_cons, eq_comm (a := k)]
        split <;> simp_all
      · simp only [Memory.read_cons, ih]
        split <;> split <;> simp_all

theorem Memory.read_filter_ne (m : Memory) (a c : Nat) :
    Memory.read (m.filter fun d => d.1 != a) c = if c = a then unlistedByte else m.read c := by
  induction m with
  | nil => simp
  | cons d m ih =>
    by_cases hd : d.1 = a
    · simp only [List.filter_cons, hd, bne_self_eq_false, Bool.false_eq_true, if_false, ih, Memory.read_cons]
      split <;> simp_all [eq_comm]
    · simp only [List.filter_cons, bne_iff_ne.mpr hd, if_true, Memory.read_cons, ih]
      split <;> split <;> simp_all

/-- A read after a write: the value written there, what was there before elsewhere. -/
theorem Memory.read_write (m : Memory) (a c : Nat) (v : Byte) :
    (m.write a v).read c = if c = a then v else m.read c := by
  unfold Memory.write
  split
  · simp_all [Memory.read_filter_ne]
  · exact Memory.read_insertAt m a c v

@[simp] theorem Memory.read_write_same (m : Memory) (a : Nat) (v : Byte) : (m.write a v).read a = v := by
  simp [Memory.read_write]

theorem Memory.read_write_other {m : Memory} {a c : Nat} {v : Byte} (h : c ≠ a) :
    (m.write a v).read c = m.read c := by
  simp [Memory.read_write, h]

@[simp] theorem Memory.writeAll_nil (m : Memory) : m.writeAll [] = m := rfl

@[simp] theorem Memory.writeAll_cons (m : Memory) (w : Word × Byte) (ws : List (Word × Byte)) :
    m.writeAll (w :: ws) = (m.write w.1.toNat w.2).writeAll ws := rfl

/-- An address no store designates keeps its byte. -/
theorem Memory.read_writeAll_outside {ws : List (Word × Byte)} {a : Word} (m : Memory)
    (h : ∀ w ∈ ws, w.1 ≠ a) : (m.writeAll ws).read a.toNat = m.read a.toNat := by
  induction ws generalizing m with
  | nil => rfl
  | cons w ws ih =>
    rw [Memory.writeAll_cons, ih _ fun x hx => h x (List.mem_cons_of_mem _ hx)]
    exact Memory.read_write_other fun e => h w List.mem_cons_self (BitVec.eq_of_toNat_eq e.symm)

/-- Where every store to an address stores the same byte, that byte is read there. -/
theorem Memory.read_writeAll_value {ws : List (Word × Byte)} {a : Word} {v : Byte} (m : Memory)
    (hmem : (a, v) ∈ ws) (huniq : ∀ w ∈ ws, w.1 = a → w.2 = v) :
    (m.writeAll ws).read a.toNat = v := by
  induction ws generalizing m with
  | nil => simp at hmem
  | cons w ws ih =>
    rw [Memory.writeAll_cons]
    by_cases hin : (a, v) ∈ ws
    · exact ih _ hin fun x hx => huniq x (List.mem_cons_of_mem _ hx)
    · have hw : w = (a, v) := by
        rcases List.mem_cons.mp hmem with h | h
        · exact h.symm
        · exact absurd h hin
      have hout : ∀ x ∈ ws, x.1 ≠ a := by
        intro x hx hxa
        apply hin
        have := huniq x (List.mem_cons_of_mem _ hx) hxa
        rw [← hxa, ← this]
        exact hx
      rw [Memory.read_writeAll_outside _ hout, hw]
      simp

/-! ## The canonical form -/

theorem Memory.rising_iff_pairwise (m : Memory) :
    m.rising = true ↔ m.Pairwise fun c d => c.1 < d.1 := by
  induction m with
  | nil => simp [Memory.rising]
  | cons c m ih =>
    cases m with
    | nil => simp [Memory.rising]
    | cons d m =>
      simp only [Memory.rising, Bool.and_eq_true, decide_eq_true_eq, ih, List.pairwise_cons, List.mem_cons,
        forall_eq_or_imp]
      constructor
      · rintro ⟨hcd, hd, hm⟩
        exact ⟨⟨hcd, fun x hx => lt_trans hcd (hd x hx)⟩, hd, hm⟩
      · rintro ⟨⟨hcd, -⟩, hd, hm⟩
        exact ⟨hcd, hd, hm⟩

/-- The canonical form, as a property of the list. -/
theorem Memory.wf_iff (m : Memory) :
    m.wf = true ↔ (m.Pairwise fun c d => c.1 < d.1) ∧ ∀ c ∈ m, c.1 < 2 ^ 32 ∧ c.2 ≠ unlistedByte := by
  simp [Memory.wf, Memory.rising_iff_pairwise]

theorem Memory.mem_insertAt {m : Memory} {a : Nat} {v : Byte} {c : Host.Cell} (h : c ∈ m.insertAt a v) :
    c = (a, v) ∨ c ∈ m := by
  induction m with
  | nil => simpa [Memory.insertAt] using h
  | cons d m ih =>
    simp only [Memory.insertAt] at h
    split at h
    · simpa using h
    · split at h
      · rcases List.mem_cons.mp h with h | h <;> simp [h]
      · rcases List.mem_cons.mp h with h | h
        · simp [h]
        · rcases ih h with h | h <;> simp [h]

theorem Memory.insertAt_pairwise {m : Memory} (a : Nat) (v : Byte) (h : m.Pairwise fun c d => c.1 < d.1) :
    (m.insertAt a v).Pairwise fun c d => c.1 < d.1 := by
  induction m with
  | nil => simp [Memory.insertAt]
  | cons d m ih =>
    obtain ⟨k, b⟩ := d
    obtain ⟨hd, hm⟩ := List.pairwise_cons.mp h
    simp only [Memory.insertAt]
    split
    · next hak =>
      refine List.pairwise_cons.mpr ⟨fun x hx => ?_, h⟩
      rcases List.mem_cons.mp hx with rfl | hx
      · exact hak
      · exact lt_trans hak (hd x hx)
    · next hak =>
      split
      · next heq =>
        subst heq
        exact List.pairwise_cons.mpr ⟨hd, hm⟩
      · next hne =>
        refine List.pairwise_cons.mpr ⟨fun x hx => ?_, ih hm⟩
        rcases Memory.mem_insertAt hx with rfl | hx
        · exact lt_of_le_of_ne (not_lt.mp hak) fun e => hne e.symm
        · exact hd x hx

/-- A write to one of the 2^32 addresses keeps the canonical form. -/
theorem Memory.write_wf {m : Memory} {a : Nat} (v : Byte) (ha : a < 2 ^ 32) (h : m.wf = true) :
    (m.write a v).wf = true := by
  rw [Memory.wf_iff] at h ⊢
  unfold Memory.write
  split
  · exact ⟨h.1.sublist List.filter_sublist, fun c hc => h.2 c (List.mem_of_mem_filter hc)⟩
  · next hv =>
    refine ⟨Memory.insertAt_pairwise a v h.1, fun c hc => ?_⟩
    rcases Memory.mem_insertAt hc with rfl | hc
    · exact ⟨ha, hv⟩
    · exact h.2 c hc

/-- A list of stores keeps the canonical form. -/
theorem Memory.writeAll_wf {m : Memory} (ws : List (Word × Byte)) (h : m.wf = true) :
    (m.writeAll ws).wf = true := by
  induction ws generalizing m with
  | nil => exact h
  | cons w ws ih => exact ih (Memory.write_wf w.2 w.1.isLt h)

theorem Memory.reset_wf : State.reset.mem.wf = true := by decide

/-- In canonical form, a listed byte is the byte read. -/
theorem Memory.read_of_mem {m : Memory} {c : Host.Cell} (h : m.wf = true) (hc : c ∈ m) : m.read c.1 = c.2 := by
  replace h := ((Memory.wf_iff m).mp h).1
  induction m with
  | nil => simp at hc
  | cons d m ih =>
    obtain ⟨hd, hm⟩ := List.pairwise_cons.mp h
    rcases List.mem_cons.mp hc with rfl | hc
    · simp [Memory.read_cons]
    · rw [Memory.read_cons, if_neg (hd c hc).ne, ih hc hm]

/-- A byte that is not what an unlisted address reads as is listed. -/
theorem Memory.mem_of_read {m : Memory} {a : Nat} (h : m.read a ≠ unlistedByte) : (a, m.read a) ∈ m := by
  induction m with
  | nil => simp at h
  | cons d m ih =>
    obtain ⟨k, b⟩ := d
    rw [Memory.read_cons] at h ⊢
    by_cases hk : k = a
    · simp [hk]
    · simp only [hk, if_false] at h ⊢
      exact List.mem_cons_of_mem _ (ih h)

end Sys2Proof.Machine
end

