-- ==== Sys2Proof/Laws/State.lean ====
section
/-! SUPPORT. One lemma per field per update of the state, so that no proof unfolds a record update. -/

namespace Sys2Proof.Machine
open Sys2Proof.Config

/-! ## Completion of an instance (R272) -/

@[simp] theorem CscInstance.complete_irqEn (x : CscInstance) (c : Word) :
    (x.complete c).irqEn = x.irqEn := rfl

@[simp] theorem CscInstance.complete_done (x : CscInstance) (c : Word) :
    (x.complete c).done = true := rfl

@[simp] theorem CscInstance.complete_err (x : CscInstance) (c : Word) :
    (x.complete c).err = decide (sext32 c < 0) := rfl

@[simp] theorem CscInstance.complete_result (x : CscInstance) (c : Word) :
    (x.complete c).result = c := rfl

@[simp] theorem CscInstance.complete_regs (x : CscInstance) (c : Word) :
    (x.complete c).regs = x.regs := rfl

@[simp] theorem CscInstance.complete_inFlight (x : CscInstance) (c : Word) :
    (x.complete c).inFlight = none := rfl

/-! ## An accepted START (R140) -/

@[simp] theorem CscInstance.start_irqEn (x : CscInstance) :
    (x.start).irqEn = x.irqEn := rfl

@[simp] theorem CscInstance.start_done (x : CscInstance) :
    (x.start).done = false := rfl

@[simp] theorem CscInstance.start_err (x : CscInstance) :
    (x.start).err = false := rfl

@[simp] theorem CscInstance.start_result (x : CscInstance) :
    (x.start).result = x.result := rfl

@[simp] theorem CscInstance.start_regs (x : CscInstance) :
    (x.start).regs = x.regs := rfl

@[simp] theorem CscInstance.start_inFlight (x : CscInstance) :
    (x.start).inFlight = some ⟨x.regs, false⟩ := rfl

/-! ## A write to STATUS (R24) -/

@[simp] theorem CscInstance.acknowledge_irqEn (x : CscInstance) (v : Word) :
    (x.acknowledge v).irqEn = x.irqEn := rfl

@[simp] theorem CscInstance.acknowledge_done (x : CscInstance) (v : Word) :
    (x.acknowledge v).done = (x.done && !v.getLsbD 1) := rfl

@[simp] theorem CscInstance.acknowledge_err (x : CscInstance) (v : Word) :
    (x.acknowledge v).err = (x.err && !v.getLsbD 2) := rfl

@[simp] theorem CscInstance.acknowledge_result (x : CscInstance) (v : Word) :
    (x.acknowledge v).result = x.result := rfl

@[simp] theorem CscInstance.acknowledge_regs (x : CscInstance) (v : Word) :
    (x.acknowledge v).regs = x.regs := rfl

@[simp] theorem CscInstance.acknowledge_inFlight (x : CscInstance) (v : Word) :
    (x.acknowledge v).inFlight = x.inFlight := rfl

/-! ## The command placed by withFetchWord -/

@[simp] theorem CscInstance.started_irqEn (x : CscInstance) (w : Word) :
    (x.started w).irqEn = x.irqEn := rfl

@[simp] theorem CscInstance.started_done (x : CscInstance) (w : Word) :
    (x.started w).done = false := rfl

@[simp] theorem CscInstance.started_err (x : CscInstance) (w : Word) :
    (x.started w).err = false := rfl

@[simp] theorem CscInstance.started_result (x : CscInstance) (w : Word) :
    (x.started w).result = x.result := rfl

@[simp] theorem CscInstance.started_regs (x : CscInstance) (w : Word) :
    (x.started w).regs = x.regs.withCmd w := rfl

@[simp] theorem CscInstance.started_inFlight (x : CscInstance) (w : Word) :
    (x.started w).inFlight = some ⟨x.regs.withCmd w, false⟩ := rfl

/-! ## Completion (R272) -/

@[simp] theorem State.complete_before (s : State) (c : Word) :
    (s.complete c).before = s.before := rfl

@[simp] theorem State.complete_inst (s : State) (c : Word) :
    (s.complete c).inst = s.inst.complete c := rfl

@[simp] theorem State.complete_after (s : State) (c : Word) :
    (s.complete c).after = s.after := rfl

@[simp] theorem State.complete_mem (s : State) (c : Word) :
    (s.complete c).mem = s.mem := rfl

@[simp] theorem State.complete_plat (s : State) (c : Word) :
    (s.complete c).plat = s.plat := rfl

@[simp] theorem State.complete_agenda (s : State) (c : Word) :
    (s.complete c).agenda = s.agenda := rfl

@[simp] theorem State.complete_readData (s : State) (c : Word) :
    (s.complete c).readData = s.readData := rfl

@[simp] theorem State.complete_staleForBlock (s : State) (c : Word) :
    (s.complete c).staleForBlock = s.staleForBlock := rfl

@[simp] theorem State.complete_staleForHost (s : State) (c : Word) :
    (s.complete c).staleForHost = s.staleForHost := rfl

@[simp] theorem State.complete_freeCount (s : State) (c : Word) :
    (s.complete c).freeCount = s.freeCount := rfl

/-! ## Performing a job (R153) -/

@[simp] theorem State.perform_before (s : State) (j : Job) (cut : Bool) :
    (s.perform j cut).before = s.before.map (CscInstance.taintedBy s.plat.tables j) := rfl

@[simp] theorem State.perform_inst (s : State) (j : Job) (cut : Bool) :
    (s.perform j cut).inst = s.inst := rfl

@[simp] theorem State.perform_after (s : State) (j : Job) (cut : Bool) :
    (s.perform j cut).after = s.after.map (CscInstance.taintedBy s.plat.tables j) := rfl

@[simp] theorem State.perform_mem (s : State) (j : Job) (cut : Bool) :
    (s.perform j cut).mem = s.mem.writeAll (s.effects j cut) := rfl

@[simp] theorem State.perform_plat (s : State) (j : Job) (cut : Bool) :
    (s.perform j cut).plat = s.plat := rfl

@[simp] theorem State.perform_agenda (s : State) (j : Job) (cut : Bool) :
    (s.perform j cut).agenda = s.agenda := rfl

@[simp] theorem State.perform_readData (s : State) (j : Job) (cut : Bool) :
    (s.perform j cut).readData = s.readData := rfl

@[simp] theorem State.perform_staleForBlock (s : State) (j : Job) (cut : Bool) :
    (s.perform j cut).staleForBlock = s.staleForBlock := rfl

@[simp] theorem State.perform_staleForHost (s : State) (j : Job) (cut : Bool) :
    (s.perform j cut).staleForHost = s.staleAfter (s.effects j cut) := rfl

@[simp] theorem State.perform_freeCount (s : State) (j : Job) (cut : Bool) :
    (s.perform j cut).freeCount = s.freeCount + 1 := rfl

/-! ## The soft reset (R302) -/

@[simp] theorem State.softReset_before (s : State) :
    (s.softReset).before = s.abort.before := rfl

@[simp] theorem State.softReset_inst (s : State) :
    (s.softReset).inst = CscInstance.reset := rfl

@[simp] theorem State.softReset_after (s : State) :
    (s.softReset).after = s.abort.after := rfl

@[simp] theorem State.softReset_mem (s : State) :
    (s.softReset).mem = s.abort.mem := rfl

@[simp] theorem State.softReset_plat (s : State) :
    (s.softReset).plat = s.abort.plat := rfl

@[simp] theorem State.softReset_agenda (s : State) :
    (s.softReset).agenda = s.abort.agenda := rfl

@[simp] theorem State.softReset_readData (s : State) :
    (s.softReset).readData = s.abort.readData := rfl

@[simp] theorem State.softReset_staleForBlock (s : State) :
    (s.softReset).staleForBlock = s.abort.staleForBlock := rfl

@[simp] theorem State.softReset_staleForHost (s : State) :
    (s.softReset).staleForHost = s.abort.staleForHost := rfl

@[simp] theorem State.softReset_freeCount (s : State) :
    (s.softReset).freeCount = s.abort.freeCount := rfl

/-! ## A byte the host stores (R72) -/

@[simp] theorem State.hostStoreByte_before (s : State) (a : Word) (v : Byte) :
    (s.hostStoreByte a v).before = s.before.map (CscInstance.hitBy s.plat.tables a) := rfl

@[simp] theorem State.hostStoreByte_inst (s : State) (a : Word) (v : Byte) :
    (s.hostStoreByte a v).inst = s.inst.hitBy s.plat.tables a := rfl

@[simp] theorem State.hostStoreByte_after (s : State) (a : Word) (v : Byte) :
    (s.hostStoreByte a v).after = s.after.map (CscInstance.hitBy s.plat.tables a) := rfl

@[simp] theorem State.hostStoreByte_mem (s : State) (a : Word) (v : Byte) :
    (s.hostStoreByte a v).mem = s.mem.write a.toNat (s.hostStoredByte a v) := rfl

@[simp] theorem State.hostStoreByte_plat (s : State) (a : Word) (v : Byte) :
    (s.hostStoreByte a v).plat = s.plat := rfl

@[simp] theorem State.hostStoreByte_agenda (s : State) (a : Word) (v : Byte) :
    (s.hostStoreByte a v).agenda = s.agenda := rfl

@[simp] theorem State.hostStoreByte_readData (s : State) (a : Word) (v : Byte) :
    (s.hostStoreByte a v).readData = s.readData := rfl

@[simp] theorem State.hostStoreByte_staleForBlock (s : State) (a : Word) (v : Byte) :
    (s.hostStoreByte a v).staleForBlock = s.staleAfterHost a := rfl

@[simp] theorem State.hostStoreByte_staleForHost (s : State) (a : Word) (v : Byte) :
    (s.hostStoreByte a v).staleForHost = s.staleForHost := rfl

@[simp] theorem State.hostStoreByte_freeCount (s : State) (a : Word) (v : Byte) :
    (s.hostStoreByte a v).freeCount = s.freeCount := rfl

/-! ## Cache maintenance (R73) -/

@[simp] theorem State.maintain_before (s : State) : s.maintain.before =
    s.before.map (CscInstance.hitByAny s.plat.tables s.staleForBlock) := rfl

@[simp] theorem State.maintain_inst (s : State) : s.maintain.inst =
    s.inst.hitByAny s.plat.tables s.staleForBlock := rfl

@[simp] theorem State.maintain_after (s : State) : s.maintain.after =
    s.after.map (CscInstance.hitByAny s.plat.tables s.staleForBlock) := rfl

@[simp] theorem State.maintain_mem (s : State) : s.maintain.mem =
    s.mem.writeAll (s.staleForBoth.map fun a => (a, freeByte s.freeCount a.toNat)) := rfl

@[simp] theorem State.maintain_plat (s : State) : s.maintain.plat = s.plat := rfl

@[simp] theorem State.maintain_agenda (s : State) : s.maintain.agenda = s.agenda := rfl

@[simp] theorem State.maintain_readData (s : State) : s.maintain.readData = s.readData := rfl

@[simp] theorem State.maintain_staleForBlock (s : State) : s.maintain.staleForBlock = [] := rfl

@[simp] theorem State.maintain_staleForHost (s : State) : s.maintain.staleForHost = [] := rfl

@[simp] theorem State.maintain_freeCount (s : State) : s.maintain.freeCount = s.freeCount + 1 := rfl

/-! ## A command placed (Machine/Step.lean) -/

@[simp] theorem State.withFetchWord_before (s : State) (nbits w : Nat) :
    (s.withFetchWord nbits w).before = s.before := rfl

@[simp] theorem State.withFetchWord_inst (s : State) (nbits w : Nat) :
    (s.withFetchWord nbits w).inst = s.inst.started (BitVec.ofNat 32 (w % 2 ^ nbits)) := rfl

@[simp] theorem State.withFetchWord_after (s : State) (nbits w : Nat) :
    (s.withFetchWord nbits w).after = s.after := rfl

@[simp] theorem State.withFetchWord_mem (s : State) (nbits w : Nat) :
    (s.withFetchWord nbits w).mem = s.mem := rfl

@[simp] theorem State.withFetchWord_plat (s : State) (nbits w : Nat) :
    (s.withFetchWord nbits w).plat = s.plat := rfl

@[simp] theorem State.withFetchWord_agenda (s : State) (nbits w : Nat) :
    (s.withFetchWord nbits w).agenda = s.runNext := rfl

@[simp] theorem State.withFetchWord_readData (s : State) (nbits w : Nat) :
    (s.withFetchWord nbits w).readData = s.readData := rfl

@[simp] theorem State.withFetchWord_staleForBlock (s : State) (nbits w : Nat) :
    (s.withFetchWord nbits w).staleForBlock = s.staleForBlock := rfl

@[simp] theorem State.withFetchWord_staleForHost (s : State) (nbits w : Nat) :
    (s.withFetchWord nbits w).staleForHost = s.staleForHost := rfl

@[simp] theorem State.withFetchWord_freeCount (s : State) (nbits w : Nat) :
    (s.withFetchWord nbits w).freeCount = s.freeCount := rfl

/-! ## BUSY (R24) -/

@[simp] theorem CscInstance.complete_busy (x : CscInstance) (c : Word) : (x.complete c).busy = false := rfl

@[simp] theorem CscInstance.start_busy (x : CscInstance) : x.start.busy = true := rfl

@[simp] theorem CscInstance.reset_busy : CscInstance.reset.busy = false := rfl

@[simp] theorem CscInstance.acknowledge_busy (x : CscInstance) (v : Word) : (x.acknowledge v).busy = x.busy := rfl

end Sys2Proof.Machine
end

