-- ==== Sys2Proof/Laws/Ops.lean ====
section
/-! SUPPORT. One spec lemma per shared operation of Machine/Ops.lean: what `runOperation` can answer, what performing a
job leaves in each byte, and what it leaves of the other instances. -/

namespace Sys2Proof.Machine
open Sys2Proof.Config

/-! ## Execution is runOperation of the command's rule -/

/-- Every command's meaning is the shared execution with its own rule. -/
theorem exec_eq_runOperation (i : Instr) (s : State) : exec i s = runOperation (ruleOf i) s := by
  cases i <;> rfl

/-- Everything `runOperation` can do (R144, R145, R153, R273). -/
theorem runOperation_cases (op : Operation) (s : State) :
    (op.valid s.command = false ∧ runOperation op s = .next (s.complete codeInvalidArgument)) ∨
    (op.valid s.command = true ∧ s.footprintMapped (op.jobOn s) = true ∧
      runOperation op s = .next ((s.perform (op.jobOn s) false).complete codeOk)) ∨
    (op.valid s.command = true ∧ s.footprintMapped (op.jobOn s) = false ∧
      runOperation op s = .next ((s.perform (op.jobOn s) true).complete codeBusError)) := by
  unfold runOperation Operation.valid
  cases s.command.nullPlane op.req <;> cases s.command.sizeOk <;> cases s.footprintMapped (op.jobOn s) <;> simp

theorem runOperation_invalid {op : Operation} {s : State} (h : op.valid s.command = false) :
    runOperation op s = .next (s.complete codeInvalidArgument) := by
  rcases runOperation_cases op s with h' | h' | h' <;> simp_all

theorem runOperation_mapped {op : Operation} {s : State} (h : op.valid s.command = true)
    (hm : s.footprintMapped (op.jobOn s) = true) :
    runOperation op s = .next ((s.perform (op.jobOn s) false).complete codeOk) := by
  rcases runOperation_cases op s with h' | h' | h' <;> simp_all

theorem runOperation_unmapped {op : Operation} {s : State} (h : op.valid s.command = true)
    (hm : s.footprintMapped (op.jobOn s) = false) :
    runOperation op s = .next ((s.perform (op.jobOn s) true).complete codeBusError) := by
  rcases runOperation_cases op s with h' | h' | h' <;> simp_all

/-! ## The bytes a job leaves -/

@[simp] theorem State.byte_complete (s : State) (c : Word) (a : Word) : (s.complete c).byte a = s.byte a := rfl

/-- Every byte a job stores is at a write position. -/
theorem State.effects_in_df {s : State} {j : Job} {cut : Bool} {w : Word × Byte} (h : w ∈ s.effects j cut) :
    j.writes w.1 = true := by
  simp only [State.effects, List.mem_map] at h
  obtain ⟨w', hw', rfl⟩ := h
  have hin : w' ∈ j.stores (s.sourceBytes j (s.sourceIntact j)) := by
    split at hw'
    · exact List.mem_of_mem_filter hw'
    · exact hw'
  exact Job.stores_in_df (w := w') hin

/-- A byte outside DF is unchanged, whatever the outcome (R67, R68, R276). -/
theorem State.byte_perform_outside {s : State} {j : Job} {cut : Bool} {a : Word} (h : j.writes a = false) :
    (s.perform j cut).byte a = s.byte a := by
  refine Memory.read_writeAll_outside _ fun w hw e => ?_
  have := State.effects_in_df hw
  rw [e, h] at this
  exact Bool.noConfusion this

/-- A byte of DF ends with what `finalByte` says of its rule's value, when no byte is designated twice. A command cut
short stores only Mapped bytes. -/
theorem State.byte_perform_at {s : State} {j : Job} {cut : Bool} (h : noneTwice j.df = true) {k r i : Nat} {p : Plane}
    (hk : j.dsts[k]? = some p) (hr : r < p.rows) (hi : i < p.bytes)
    (hm : cut = true → s.mapped (p.byteAddr r i) = true) :
    (s.perform j cut).byte (p.byteAddr r i) =
      s.finalByte (s.unspecified j) cut (p.byteAddr r i)
        (j.value (s.sourceBytes j (s.sourceIntact j)) k r i) := by
  have hin : (p.byteAddr r i, j.value (s.sourceBytes j (s.sourceIntact j)) k r i) ∈
      j.stores (s.sourceBytes j (s.sourceIntact j)) := Job.mem_stores.mpr ⟨k, p, r, i, hk, hr, hi, rfl⟩
  refine Memory.read_writeAll_value _ ?_ ?_
  · simp only [State.effects, List.mem_map]
    refine ⟨(p.byteAddr r i, j.value (s.sourceBytes j (s.sourceIntact j)) k r i), ?_, rfl⟩
    cases cut
    · simpa using hin
    · simpa [List.mem_filter] using ⟨hin, hm rfl⟩
  · intro w hw hwa
    simp only [State.effects, List.mem_map] at hw
    obtain ⟨w', hw', rfl⟩ := hw
    have hin' : w' ∈ j.stores (s.sourceBytes j (s.sourceIntact j)) := by
      split at hw'
      · exact List.mem_of_mem_filter hw'
      · exact hw'
    rw [Job.stores_value_unique h hin' hin hwa]

/-- A byte of DF of a command whose destination is unspecified ends free (R68, R72, R75), whether or not bytes are
designated twice. -/
theorem State.byte_perform_unspecified {s : State} {j : Job} (h : s.unspecified j = true) {a : Word}
    (ha : j.writes a = true) : (s.perform j false).byte a = freeByte s.freeCount a.toNat := by
  obtain ⟨p, hp, r, hr, i, hi, rfl⟩ := (Job.writes_iff j a).mp ha
  obtain ⟨k, hk⟩ := List.getElem?_of_mem hp
  refine Memory.read_writeAll_value _ ?_ ?_
  · simp only [State.effects, List.mem_map, Bool.false_eq_true, if_false]
    exact ⟨_, Job.mem_stores.mpr ⟨k, p, r, i, hk, hr, hi, rfl⟩, by simp [State.finalByte, h]⟩
  · intro w hw hwa
    simp only [State.effects, List.mem_map, Bool.false_eq_true, if_false] at hw
    obtain ⟨w', -, rfl⟩ := hw
    simp only [State.finalByte, h, Bool.false_and, Bool.false_eq_true, if_false, if_true]
    simp only at hwa
    rw [hwa]

/-- A byte of DF of a command cut short ends with its old value, the rule's, or, where the destination is unspecified, a
free one (R276, R302). -/
theorem State.byte_perform_cut {s : State} {j : Job} (h : noneTwice j.df = true) {k r i : Nat} {p : Plane}
    (hk : j.dsts[k]? = some p) (hr : r < p.rows) (hi : i < p.bytes) (hm : s.mapped (p.byteAddr r i) = true) :
    (s.perform j true).byte (p.byteAddr r i) = s.byte (p.byteAddr r i) ∨
    (s.unspecified j = false ∧ (s.perform j true).byte (p.byteAddr r i) =
      j.value (s.sourceBytes j (s.sourceIntact j)) k r i) ∨
    (s.unspecified j = true ∧ (s.perform j true).byte (p.byteAddr r i) =
      freeByte s.freeCount (p.byteAddr r i).toNat) := by
  rw [State.byte_perform_at h hk hr hi fun _ => hm]
  unfold State.finalByte
  cases freeChoice s.freeCount (p.byteAddr r i).toNat <;> cases s.unspecified j <;> simp [State.byte]

/-- A byte that is not Mapped is not stored by a command cut short (R276). -/
theorem State.byte_perform_unmapped {s : State} {j : Job} {a : Word} (h : s.mapped a = false) :
    (s.perform j true).byte a = s.byte a := by
  refine Memory.read_writeAll_outside _ fun w hw e => ?_
  simp only [State.effects, if_true, List.mem_map, List.mem_filter] at hw
  obtain ⟨w', ⟨-, hm⟩, rfl⟩ := hw
  simp only at e
  rw [e, h] at hm
  exact Bool.noConfusion hm

/-! ## The bytes a job hides from the host (R73, assumption 16) -/

/-- A job that is not cut short stores at every address of DF and no other. -/
theorem State.effects_any (s : State) (j : Job) (b : Word) :
    ((s.effects j false).any fun w => w.1 == b) = j.writes b := by
  rw [Bool.eq_iff_iff, List.any_eq_true]
  constructor
  · rintro ⟨w, hw, e⟩
    rw [← beq_iff_eq.mp e]
    exact State.effects_in_df hw
  · intro h
    obtain ⟨p, hp, r, hr, i, hi, rfl⟩ := (Job.writes_iff j b).mp h
    obtain ⟨k, hk⟩ := List.getElem?_of_mem hp
    simp only [State.effects, List.mem_map, Bool.false_eq_true, if_false]
    exact ⟨_, ⟨_, Job.mem_stores.mpr ⟨k, p, r, i, hk, hr, hi, rfl⟩, rfl⟩, by simp⟩

/-- With COHERENT false, what a job stores is hidden from the host beside what was. -/
theorem State.staleAfter_contains {s : State} (hc : s.plat.coherent = false) (ws : List (Word × Byte)) (b : Word) :
    (s.staleAfter ws).contains b = (s.staleForHost.contains b || ws.any fun w => w.1 == b) := by
  simp only [State.staleAfter, hc, Bool.false_eq_true, if_false]
  generalize s.staleForHost = l
  induction ws generalizing l with
  | nil => simp
  | cons w ws ih =>
    rw [List.foldl_cons, ih, List.any_cons, ← Bool.or_assoc]
    congr 1
    split
    · next hw =>
      by_cases e : w.1 = b
      · rw [← e, hw]; simp
      · simp [beq_eq_false_iff_ne.mpr e]
    · rw [List.contains_cons, Bool.or_comm, Bool.beq_comm]

/-! ## Source bytes -/

/-- With every source byte Mapped and visible, a source byte is the byte of M0 (R70, R150). -/
theorem State.sourceBytes_intact {s : State} {j : Job} {k r i : Nat} {p : Plane} (hk : j.srcs[k]? = some p) :
    s.sourceBytes j true k r i = s.byte (p.byteAddr r i) := by
  simp [State.sourceBytes, hk, State.byte]

/-! ## The other instances -/

theorem CscInstance.taintedBy_of_no_conflict {t : Tables} {j : Job} {x : CscInstance}
    (h : ∀ k, x.job? t = some k → j.conflictsWith k = false) : x.taintedBy t j = x := by
  unfold CscInstance.taintedBy
  split
  · next f k hf hk => simp [h k hk]
  · rfl

/-- Without a conflict, performing a job leaves every other instance as it is (R285). -/
theorem State.taint_of_no_conflict {s : State} {j : Job} (h : s.conflict j = false) :
    s.before.map (CscInstance.taintedBy s.plat.tables j) = s.before ∧
    s.after.map (CscInstance.taintedBy s.plat.tables j) = s.after := by
  have key : ∀ x ∈ s.before ++ s.after, x.taintedBy s.plat.tables j = x := by
    intro x hx
    refine CscInstance.taintedBy_of_no_conflict fun k hk => ?_
    have := List.any_eq_false.mp h x hx
    simpa [hk] using this
  exact ⟨List.map_congr_left (fun x hx => key x (List.mem_append_left _ hx)) |>.trans (List.map_id' _),
    List.map_congr_left (fun x hx => key x (List.mem_append_right _ hx)) |>.trans (List.map_id' _)⟩

/-! ## Clean runs -/

theorem cleanRun_iff (i : Instr) (s : State) :
    cleanRun i s = true ↔ (ruleOf i).valid s.command = true ∧ s.footprintMapped ((ruleOf i).jobOn s) = true ∧
      ((ruleOf i).jobOn s).memWellFormed = true ∧ s.tainted = false ∧ s.conflict ((ruleOf i).jobOn s) = false ∧
      s.sourceIntact ((ruleOf i).jobOn s) = true := by
  simp [cleanRun, and_assoc]

/-- The whole of a clean run: the command completes with 0, every byte of DF has the value its rule gives it from M0,
every other byte and every register but STATUS and RESULT is unchanged (R153, R156, R67). -/
theorem exec_of_cleanRun {i : Instr} {s : State} (h : cleanRun i s = true) :
    ∃ t, exec i s = .next t ∧ CompletedWith codeOk s t ∧
      (∀ k p r b, ((ruleOf i).jobOn s).dsts[k]? = some p → r < p.rows → b < p.bytes →
        t.byte (p.byteAddr r b) =
          ((ruleOf i).jobOn s).value (s.sourceBytes ((ruleOf i).jobOn s) true) k r b) ∧
      ∀ a, ((ruleOf i).jobOn s).writes a = false → t.byte a = s.byte a := by
  obtain ⟨hv, hm, hw, ht, hc, hs⟩ := (cleanRun_iff i s).mp h
  obtain ⟨hb, ha⟩ := State.taint_of_no_conflict hc
  have htwice : noneTwice ((ruleOf i).jobOn s).df = true := by
    simp only [Job.memWellFormed, Bool.and_eq_true] at hw
    exact hw.1
  have hunspec : s.unspecified ((ruleOf i).jobOn s) = false := by simp [State.unspecified, hw, ht, hc]
  refine ⟨_, (exec_eq_runOperation i s).trans (runOperation_mapped hv hm), ?_, ?_, ?_⟩
  · simp [CompletedWith, hb, ha]
  · intro k p r b hk hr hbb
    rw [State.byte_complete, State.byte_perform_at htwice hk hr hbb (by simp)]
    simp [State.finalByte, hunspec, hs]
  · intro a hout
    rw [State.byte_complete, State.byte_perform_outside hout]

end Sys2Proof.Machine
end

