-- ==== Sys2Proof/Laws/Bus.lean ====
section
/-! SUPPORT. The laws of the host's side: bringing an instance to the front, register reads and writes, bus accesses,
reset; and that each keeps memory in its canonical form. -/

namespace Sys2Proof.Machine
open Sys2Proof.Config

/-! ## Bringing an instance to the front -/

theorem State.instances_length (s : State) : s.instances.length = s.nInstances := by
  simp [State.instances, State.nInstances]; omega

@[simp] theorem State.inst_mem (s : State) : s.inst ∈ s.instances := by simp [State.instances]

theorem State.focus_of_lt {s : State} {k : Nat} (h : k < s.nInstances) :
    s.focus k = { s with before := s.instances.take k, inst := s.instances[k]'(by rwa [s.instances_length]),
                         after := s.instances.drop (k + 1) } := by
  have hk : k < s.instances.length := by rwa [s.instances_length]
  unfold State.focus
  rw [List.drop_eq_getElem_cons hk]

theorem State.focus_of_ge {s : State} {k : Nat} (h : s.nInstances ≤ k) : s.focus k = s := by
  have hk : s.instances.length ≤ k := by rwa [s.instances_length]
  simp [State.focus, List.drop_eq_nil_of_le hk]

/-- Bringing an instance to the front moves no instance. -/
@[simp] theorem State.instances_focus (s : State) (k : Nat) : (s.focus k).instances = s.instances := by
  by_cases h : k < s.nInstances
  · have hk : k < s.instances.length := by rwa [s.instances_length]
    rw [State.focus_of_lt h]
    conv_rhs => rw [← List.take_append_drop k s.instances, List.drop_eq_getElem_cons hk]
    rfl
  · rw [State.focus_of_ge (not_lt.mp h)]

@[simp] theorem State.nInstances_focus (s : State) (k : Nat) : (s.focus k).nInstances = s.nInstances := by
  rw [← State.instances_length, ← State.instances_length, State.instances_focus]

theorem State.focus_rest (s : State) (k : Nat) :
    (s.focus k).mem = s.mem ∧ (s.focus k).plat = s.plat ∧ (s.focus k).agenda = s.agenda ∧
    (s.focus k).readData = s.readData ∧ (s.focus k).staleForBlock = s.staleForBlock ∧
    (s.focus k).staleForHost = s.staleForHost ∧ (s.focus k).freeCount = s.freeCount := by
  unfold State.focus
  split <;> simp

@[simp] theorem State.focus_mem (s : State) (k : Nat) : (s.focus k).mem = s.mem := (s.focus_rest k).1

@[simp] theorem State.focus_plat (s : State) (k : Nat) : (s.focus k).plat = s.plat := (s.focus_rest k).2.1

@[simp] theorem State.focus_agenda (s : State) (k : Nat) : (s.focus k).agenda = s.agenda := (s.focus_rest k).2.2.1

/-- The current instance is already at the front. -/
@[simp] theorem State.focus_current (s : State) : s.focus s.current = s := by
  simp [State.focus, State.current, State.instances]

theorem State.current_lt (s : State) : s.current < s.nInstances := by
  simp [State.current, State.nInstances]; omega

/-- Bringing instance `k` to the front makes it the current one. -/
theorem State.focus_of_getElem? {s : State} {k : Nat} {x : CscInstance} (h : s.instances[k]? = some x) :
    (s.focus k).inst = x ∧ (s.focus k).current = k := by
  obtain ⟨hk, hx⟩ := List.getElem?_eq_some_iff.mp h
  rw [State.focus_of_lt (by rwa [← s.instances_length])]
  exact ⟨hx, by simpa [State.current] using hk.le⟩

/-- Replacing the instance at the front replaces that instance and no other. -/
theorem State.instances_focus_set {s : State} {k : Nat} (h : k < s.nInstances) (y : CscInstance) :
    State.instances { s.focus k with inst := y } = s.instances.set k y := by
  rw [List.set_eq_take_append_cons_drop, if_pos (by rwa [s.instances_length]), State.focus_of_lt h]
  rfl

theorem State.instances_current (s : State) : s.instances[s.current]? = some s.inst := by
  simp [State.instances, State.current]

/-- What is Mapped depends on the parameters and the number of instances alone (R6, R80). -/
theorem State.mapped_congr {s t : State} (hp : t.plat = s.plat) (hn : t.nInstances = s.nInstances) :
    t.mapped = s.mapped := by
  funext a
  simp only [State.mapped, State.windowOf, State.windowBase, hp, hn]
  rfl

theorem State.windowOf_of_mapped {s : State} {a : Word} (h : s.mapped a = true) : s.windowOf a = none := by
  simp only [State.mapped, Bool.and_eq_true, Option.isNone_iff_eq_none] at h
  exact h.2

/-! ## Registers -/

/-- Everything a soft reset's abort can do: nothing, or a job cut short (R302). -/
theorem State.abort_cases (s : State) : s.abort = s ∨ ∃ j, s.inst.job? s.plat.tables = some j ∧ s.abort = s.perform j true := by
  unfold State.abort
  split
  · next j h => exact .inr ⟨j, h, rfl⟩
  · exact .inl rfl

theorem State.abort_idle {s : State} (h : s.inst.inFlight = none) : s.abort = s := by
  simp [State.abort, CscInstance.job?, h]

/-- Everything a register write can do: an acknowledge, a CTRL write, or a new configuration value. -/
theorem State.writeReg_cases (s : State) (n : RegName) (v : Word) :
    (n = .ctrl ∧ s.writeReg n v = s.writeCtrl v) ∨
    (n = .status ∧ s.writeReg n v = { s with inst := s.inst.acknowledge v }) ∨
    (n ≠ .ctrl ∧ n ≠ .status ∧
      s.writeReg n v = { s with inst := { s.inst with regs := s.inst.regs.writeReg n v } }) := by
  cases n <;> simp [State.writeReg]

/-- Everything a CTRL write can do (R23, R140, R302). -/
theorem State.writeCtrl_cases (s : State) (v : Word) :
    (v.getLsbD 2 = true ∧ s.writeCtrl v = s.softReset) ∨
    (v.getLsbD 2 = false ∧ v.getLsbD 0 = true ∧ s.inst.busy = false ∧
      s.writeCtrl v = { s with inst := CscInstance.start { s.inst with irqEn := v.getLsbD 1 } }) ∨
    (v.getLsbD 2 = false ∧ (v.getLsbD 0 = false ∨ s.inst.busy = true) ∧
      s.writeCtrl v = { s with inst := { s.inst with irqEn := v.getLsbD 1 } }) := by
  unfold State.writeCtrl CscInstance.busy
  cases v.getLsbD 2 <;> cases v.getLsbD 0 <;> cases h : s.inst.inFlight <;> simp [h]

/-! ## Bus accesses -/

theorem State.windowOf_some {s : State} {a : Word} {k : Nat} (h : s.windowOf a = some k) :
    k < s.nInstances ∧ (a - s.windowBase k).toNat < 0x100 := by
  have h1 := List.mem_of_find?_eq_some h
  have h2 := List.find?_some h
  exact ⟨List.mem_range.mp h1, of_decide_eq_true h2⟩

/-- A read in a register window (R31). -/
theorem State.busRead_window {s : State} {a : Word} {k : Nat} (h : s.windowOf a = some k) (size : AccessSize) :
    s.busRead a size = if windowAccessOk (a - s.windowBase k).toNat size
      then .next (s.readWindow k (a - s.windowBase k).toNat) else .refused (.windowAccess a) := by
  rw [State.busRead, h]

/-- A write in a register window (R31). -/
theorem State.busWrite_window {s : State} {a : Word} {k : Nat} (h : s.windowOf a = some k) (size : AccessSize)
    (v : Word) : s.busWrite a size v = if windowAccessOk (a - s.windowBase k).toNat size
      then .next ((s.focus k).writeReg (regAt (a - s.windowBase k).toNat) v) else .refused (.windowAccess a) := by
  rw [State.busWrite, h]

/-- A read of Mapped bytes (R60). -/
theorem State.busRead_memory {s : State} {a : Word} {size : AccessSize} (h : s.windowOf a = none)
    (hm : (accessAddrs a size).all s.mapped = true) :
    s.busRead a size = .next { s with
      readData := BitVec.ofNat 32 (ofBytes ((accessAddrs a size).map s.hostReadByte))
      freeCount := s.freeCount + 1 } := by
  simp only [State.busRead, h, hm, if_true]

/-- A write of Mapped bytes (R60). -/
theorem State.busWrite_memory {s : State} {a : Word} {size : AccessSize} (h : s.windowOf a = none)
    (hm : (accessAddrs a size).all s.mapped = true) (v : Word) : s.busWrite a size v = .next (s.hostStore a size v) := by
  simp only [State.busWrite, h, hm, if_true]

/-- Everything a bus read can do: it changes the data read, and the number of the next draw. -/
theorem State.busRead_next {s t : State} {a : Word} {size : AccessSize} (h : s.busRead a size = .next t) :
    ∃ d n, t = { s with readData := d, freeCount := n } := by
  unfold State.busRead at h
  split at h
  · split at h
    · cases h
      unfold State.readWindow
      split
      · exact ⟨_, _, rfl⟩
      · exact ⟨_, _, rfl⟩
    · cases h
  · split at h
    · cases h; exact ⟨_, _, rfl⟩
    · cases h

/-- Everything a bus write can do: a register write on the window's instance, or a store to memory. -/
theorem State.busWrite_next {s t : State} {a : Word} {size : AccessSize} {v : Word} (h : s.busWrite a size v = .next t) :
    (∃ k, s.windowOf a = some k ∧ windowAccessOk (a - s.windowBase k).toNat size = true ∧
      t = (s.focus k).writeReg (regAt (a - s.windowBase k).toNat) v) ∨
    (s.windowOf a = none ∧ (accessAddrs a size).all s.mapped = true ∧ t = s.hostStore a size v) := by
  unfold State.busWrite at h
  split at h
  · next k hk =>
    split at h
    · next hok => cases h; exact .inl ⟨k, hk, hok, rfl⟩
    · cases h
  · next hk =>
    split at h
    · next hok => cases h; exact .inr ⟨hk, hok, rfl⟩
    · cases h

/-- A property every stored byte keeps, and that does not look at the draw counter, holds after a host store. -/
theorem State.hostStore_induct {P : State → Prop} (s : State) (a : Word) (size : AccessSize) (v : Word) (h : P s)
    (hb : ∀ t b c, P t → P (t.hostStoreByte b c)) (hn : ∀ t n, P t → P { t with freeCount := n }) :
    P (s.hostStore a size v) := by
  refine hn _ _ ?_
  generalize List.range size.bytes = l
  induction l generalizing s with
  | nil => exact h
  | cons i l ih => exact ih _ (hb _ _ _ h)

/-- A property that bringing an instance to the front and a soft reset keep holds after power-on reset. -/
theorem State.powerOn_induct {P : State → Prop} (s : State) (h : P s) (hf : ∀ t k, P t → P (t.focus k))
    (hr : ∀ t, P t → P t.softReset) : P s.powerOn := by
  refine hf _ _ ?_
  generalize List.range s.nInstances = l
  induction l generalizing s with
  | nil => exact h
  | cons k l ih => exact ih _ (hr _ (hf _ _ h))

/-! ## Commands in flight that a host store or a maintenance meets (R72, assumption 16) -/

theorem CscInstance.hitByAny_idle {x : CscInstance} (h : x.inFlight = none) (t : Tables) (as : List Word) :
    x.hitByAny t as = x := by
  simp [CscInstance.hitByAny, h]

theorem CscInstance.hitByAny_of_mem {x : CscInstance} {t : Tables} {f : InFlight} {j : Job} {as : List Word} {a : Word}
    (hf : x.inFlight = some f) (hj : jobOf t f.regs = some j) (ha : a ∈ as) (h : j.reads a = true ∨ j.writes a = true) :
    x.hitByAny t as = { x with inFlight := some { f with tainted := true } } := by
  have hany : as.any (fun a => j.reads a || j.writes a) = true := List.any_eq_true.mpr ⟨a, ha, by simpa using h⟩
  simp [CscInstance.hitByAny, CscInstance.job?, hf, hj, hany]

/-- A command whose footprint holds none of the addresses, or that has no footprint, is as it was. -/
theorem CscInstance.hitByAny_of_outside {x : CscInstance} {t : Tables} {as : List Word}
    (h : ∀ j, x.job? t = some j → ∀ a ∈ as, j.reads a = false ∧ j.writes a = false) : x.hitByAny t as = x := by
  unfold CscInstance.hitByAny
  split
  · next f j hf hj =>
    have hany : as.any (fun a => j.reads a || j.writes a) = false :=
      List.any_eq_false.mpr fun a ha => by simp [h j hj a ha]
    simp [hany]
  · rfl

/-! ## Cache maintenance (R73, R304) -/

@[simp] theorem State.instances_maintain (s : State) :
    s.maintain.instances = s.instances.map (CscInstance.hitByAny s.plat.tables s.staleForBlock) := by
  simp [State.instances]

/-- After a maintenance neither side is behind the other. -/
@[simp] theorem State.hiddenFromBlock_maintain (s : State) (a : Word) : s.maintain.hiddenFromBlock a = false := by
  simp [State.hiddenFromBlock]

@[simp] theorem State.hiddenFromHost_maintain (s : State) (a : Word) : s.maintain.hiddenFromHost a = false := by
  simp [State.hiddenFromHost]

/-- The whole effect of a maintenance on memory: a byte both sides stored to ends free (I24). -/
theorem State.byte_maintain (s : State) (a : Word) :
    s.maintain.byte a = if a ∈ s.staleForBlock ∧ a ∈ s.staleForHost then freeByte s.freeCount a.toNat else s.byte a := by
  have hmem : a ∈ s.staleForBoth ↔ a ∈ s.staleForBlock ∧ a ∈ s.staleForHost := by simp [State.staleForBoth]
  unfold State.byte
  rw [State.maintain_mem]
  split
  · next h =>
    refine Memory.read_writeAll_value _ (List.mem_map.mpr ⟨a, hmem.mpr h, rfl⟩) ?_
    simp only [List.mem_map]
    rintro w ⟨b, -, rfl⟩ rfl
    rfl
  · next h =>
    refine Memory.read_writeAll_outside _ ?_
    simp only [List.mem_map]
    rintro w ⟨b, hb, rfl⟩ rfl
    exact h (hmem.mp hb)

/-! ## Power-on reset and the bytes no command in flight writes (R300, assumption 18) -/

/-- Being marked does not change a command's job. -/
@[simp] theorem CscInstance.job?_taintedBy (t : Tables) (j : Job) (x : CscInstance) :
    (x.taintedBy t j).job? t = x.job? t := by
  unfold CscInstance.taintedBy
  split
  · next f k hf hk =>
    split
    · simp [CscInstance.job?, hf]
    · rfl
  · rfl

/-- An aborted command's byte outside DF, or not Mapped, is unchanged (R302). -/
theorem State.byte_softReset {s : State} {b : Word}
    (h : (∀ j, s.inst.job? s.plat.tables = some j → j.writes b = false) ∨ s.mapped b = false) :
    s.softReset.byte b = s.byte b := by
  have e : s.softReset.byte b = s.abort.byte b := rfl
  rcases s.abort_cases with h' | ⟨j, hj, h'⟩ <;> rw [e, h']
  rcases h with h | h
  · exact State.byte_perform_outside (h j hj)
  · exact State.byte_perform_unmapped h

/-- Every job of a machine after a soft reset was a job before it. -/
theorem State.jobs_softReset {s : State} {j : Job} (h : j ∈ s.softReset.jobs) : j ∈ s.jobs := by
  have key : ∀ (l : List CscInstance) (k : Job), j ∈ (l.map (CscInstance.taintedBy s.plat.tables k)).filterMap
      (fun x => x.job? s.plat.tables) → j ∈ l.filterMap fun x => x.job? s.plat.tables := by
    intro l k hl
    simpa [List.filterMap_map, Function.comp_def] using hl
  have hr : CscInstance.reset.job? s.plat.tables = none := rfl
  rcases s.abort_cases with h' | ⟨k, -, h'⟩
  · simp only [State.jobs, State.instances, State.softReset, h', List.filterMap_append, List.filterMap_cons, hr,
      List.mem_append] at h ⊢
    rcases h with h | h
    · exact .inl h
    · exact .inr (by split <;> simp [h])
  · simp only [State.jobs, State.instances, State.softReset, h', State.perform_before, State.perform_after,
      State.perform_plat, List.filterMap_append, List.filterMap_cons, hr, List.mem_append] at h ⊢
    rcases h with h | h
    · exact .inl (key _ k h)
    · exact .inr (by have := key _ k h; split <;> simp [this])

/-- A power-on reset changes no byte but Mapped ones of the DF of a command in flight (R300, assumption 18). -/
theorem State.byte_powerOn {s : State} {b : Word} (h : (∀ j ∈ s.jobs, j.writes b = false) ∨ s.mapped b = false) :
    s.powerOn.byte b = s.byte b := by
  refine (State.powerOn_induct (P := fun t => t.byte b = s.byte b ∧ t.plat = s.plat ∧ t.nInstances = s.nInstances ∧
    ∀ j ∈ t.jobs, j ∈ s.jobs) s ⟨rfl, rfl, rfl, fun _ hj => hj⟩ ?_ ?_).1
  · rintro t k ⟨h1, h2, h3, h4⟩
    refine ⟨by simpa [State.byte] using h1, by simpa using h2, by simpa using h3, fun j hj => h4 j ?_⟩
    simpa [State.jobs] using hj
  · rintro t ⟨h1, h2, h3, h4⟩
    refine ⟨?_, ?_, ?_, fun j hj => h4 j (State.jobs_softReset hj)⟩
    · rw [State.byte_softReset, h1]
      rcases h with h | h
      · refine .inl fun j hj => h j (h4 j ?_)
        exact List.mem_filterMap.mpr ⟨t.inst, t.inst_mem, hj⟩
      · exact .inr (by rwa [State.mapped_congr h2 h3])
    · rcases t.abort_cases with e | ⟨j, -, e⟩ <;> simp [State.softReset, e, h2]
    · rw [← h3]
      rcases t.abort_cases with e | ⟨j, -, e⟩ <;> simp [State.softReset, e, State.nInstances]

/-! ## The canonical form of memory is kept -/

theorem State.perform_mem_wf {s : State} (j : Job) (cut : Bool) (h : s.mem.wf = true) :
    (s.perform j cut).mem.wf = true := Memory.writeAll_wf _ h

theorem State.abort_mem_wf {s : State} (h : s.mem.wf = true) : s.abort.mem.wf = true := by
  rcases s.abort_cases with h' | ⟨j, -, h'⟩ <;> rw [h']
  · exact h
  · exact State.perform_mem_wf j true h

theorem State.softReset_mem_wf {s : State} (h : s.mem.wf = true) : s.softReset.mem.wf = true := State.abort_mem_wf h

theorem State.writeReg_mem_wf {s : State} (n : RegName) (v : Word) (h : s.mem.wf = true) :
    (s.writeReg n v).mem.wf = true := by
  rcases s.writeReg_cases n v with ⟨-, e⟩ | ⟨-, e⟩ | ⟨-, -, e⟩ <;> rw [e]
  · rcases s.writeCtrl_cases v with ⟨-, e⟩ | ⟨-, -, -, e⟩ | ⟨-, -, e⟩ <;> rw [e]
    · exact State.softReset_mem_wf h
    · exact h
    · exact h
  · exact h
  · exact h

theorem State.hostStore_mem_wf {s : State} (a : Word) (size : AccessSize) (v : Word) (h : s.mem.wf = true) :
    (s.hostStore a size v).mem.wf = true :=
  State.hostStore_induct (P := fun t => t.mem.wf = true) s a size v h
    (fun _ b _ ht => Memory.write_wf _ b.isLt ht) (fun _ _ ht => ht)

theorem State.maintain_mem_wf {s : State} (h : s.mem.wf = true) : s.maintain.mem.wf = true := Memory.writeAll_wf _ h

theorem State.powerOn_mem_wf {s : State} (h : s.mem.wf = true) : s.powerOn.mem.wf = true :=
  State.powerOn_induct (P := fun t => t.mem.wf = true) s h (fun t k ht => by simpa using ht)
    (fun _ ht => State.softReset_mem_wf ht)

end Sys2Proof.Machine
end

