-- ==== Sys2Proof/Laws/PerInstr.lean ====
section
/-! SUPPORT. Statements made of every command as syntax, one lemma per constructor. -/

namespace Sys2Proof.Laws.EncodeMatchesRow

/-- The command's word matches the row of R93 that bears its mnemonic, and no other row. -/
def Statement (i : Instr) : Prop :=
  (opcodeMap.filter fun row => row.matches (encode i)).map OpcodeRow.mnemonic = [i.mnemonic]

theorem pcopy : Statement .pcopy := by unfold Statement; decide

theorem pcopy2 : Statement .pcopy2 := by unfold Statement; decide

theorem pmirror : Statement .pmirror := by unfold Statement; decide

theorem pset : Statement .pset := by unfold Statement; decide

theorem psplit2 : Statement .psplit2 := by unfold Statement; decide

theorem i420copy : Statement .i420copy := by unfold Statement; decide

theorem i420mirror : Statement .i420mirror := by unfold Statement; decide

theorem i420rect : Statement .i420rect := by unfold Statement; decide

theorem i422toi420 : Statement .i422toi420 := by unfold Statement; decide

theorem nv420toi420 (s : BiplanarLayout) : Statement (.nv420toi420 s) := by unfold Statement; cases s <;> decide

theorem p422toi420 (s : Yuv422Order) : Statement (.p422toi420 s) := by unfold Statement; cases s <;> decide

theorem i420torgb32 (s : ChanOrder) : Statement (.i420torgb32 s) := by unfold Statement; cases s <;> decide

theorem i422torgb32 (s : ChanOrder) : Statement (.i422torgb32 s) := by unfold Statement; cases s <;> decide

theorem i444torgb32 (s : ChanOrder) : Statement (.i444torgb32 s) := by unfold Statement; cases s <;> decide

theorem i400torgb32 (s : ChanOrder) : Statement (.i400torgb32 s) := by unfold Statement; cases s <;> decide

theorem rgb32torgb565 (s : ChanOrder) : Statement (.rgb32torgb565 s) := by unfold Statement; cases s <;> decide

theorem rgb32toargb1555 (s : ChanOrder) : Statement (.rgb32toargb1555 s) := by unfold Statement; cases s <;> decide

theorem rgb32toargb4444 (s : ChanOrder) : Statement (.rgb32toargb4444 s) := by unfold Statement; cases s <;> decide

theorem rgb32torgb24 (s : ChanOrder) (d : Rgb24Layout) : Statement (.rgb32torgb24 s d) := by unfold Statement; cases s <;> cases d <;> decide

theorem rgb24torgb32 (s : Rgb24Layout) (d : ChanOrder) : Statement (.rgb24torgb32 s d) := by unfold Statement; cases s <;> cases d <;> decide

theorem rgb32reorder (s : ChanOrder) (d : ChanOrder) : Statement (.rgb32reorder s d) := by unfold Statement; cases s <;> cases d <;> decide

theorem rgb32toi400 (s : ChanOrder) : Statement (.rgb32toi400 s) := by unfold Statement; cases s <;> decide

theorem rgb32toi420 (s : ChanOrder) : Statement (.rgb32toi420 s) := by unfold Statement; cases s <;> decide

end Sys2Proof.Laws.EncodeMatchesRow
end

