-- ==== Sys2Proof/Laws/Step.lean ====
section
/-! SUPPORT. The laws of a step: what running a command and taking an entry of the agenda can do. -/

namespace Sys2Proof.Machine
open Sys2Proof.Config

theorem step_eq_advance (s : State) : step s = s.advance := rfl

theorem step_of_empty {s : State} (h : s.agenda = []) : step s = s.runAny := by
  simp [step, State.advance, h]

theorem step_of_entry {s : State} {e : Event} {rest : List Event} (h : s.agenda = e :: rest) :
    step s = State.handle { s with agenda := rest } e := by
  simp [step, State.advance, h]

/-- Everything running the current command can do: complete with a failure code and no memory access, or perform a job
and complete (R142, R154, R273). It never stops the machine (R274). -/
theorem State.runCurrent_cases (s : State) :
    (∃ c, resultLegal c = true ∧ s.runCurrent = .next (s.complete c)) ∨
    (∃ i c cut, decode s.command.cmd = some i ∧ resultLegal c = true ∧ (ruleOf i).valid s.command = true ∧
      s.runCurrent = .next ((s.perform ((ruleOf i).jobOn s) cut).complete c)) := by
  unfold State.runCurrent
  split
  · exact .inl ⟨_, by decide, rfl⟩
  · next i hi =>
    rw [exec_eq_runOperation]
    rcases runOperation_cases (ruleOf i) s with ⟨-, h⟩ | ⟨hv, -, h⟩ | ⟨hv, -, h⟩
    · exact .inl ⟨_, by decide, h⟩
    · exact .inr ⟨i, _, _, hi, by decide, hv, h⟩
    · exact .inr ⟨i, _, _, hi, by decide, hv, h⟩

/-- Every command completes on the instance that runs it, with a code of R270. -/
theorem State.runCurrent_completes (s : State) :
    ∃ t c, s.runCurrent = .next t ∧ resultLegal c = true ∧ t.inst = s.inst.complete c ∧ t.plat = s.plat ∧
      t.agenda = s.agenda ∧ t.readData = s.readData := by
  rcases s.runCurrent_cases with ⟨c, hc, h⟩ | ⟨i, c, cut, -, hc, -, h⟩ <;> exact ⟨_, c, h, hc, rfl, rfl, rfl, rfl⟩

/-- Everything a step that runs commands can do: run the current instance's, run another's, or stay. -/
theorem State.runAny_cases (s : State) :
    (s.inst.busy = true ∧ s.runAny = s.runCurrent) ∨
    (∃ k, s.inst.busy = false ∧ s.firstBusy = some k ∧ s.runAny = (s.focus k).runCurrent) ∨
    (s.inst.busy = false ∧ s.firstBusy = none ∧ s.runAny = .next s) := by
  unfold State.runAny
  cases hb : s.inst.busy
  · cases hf : s.firstBusy <;> simp
  · simp

theorem State.firstBusy_some {s : State} {k : Nat} (h : s.firstBusy = some k) :
    k < s.nInstances ∧ (s.focus k).inst.busy = true := by
  have hr := List.mem_of_find?_eq_some h
  have hp := List.find?_some h
  have hk : k < s.nInstances := by simpa using hr
  have hk' : k < s.instances.length := by rwa [s.instances_length]
  refine ⟨hk, ?_⟩
  rw [State.focus_of_lt hk]
  simpa [List.getElem?_eq_getElem hk'] using hp

theorem State.firstBusy_none {s : State} (h : s.firstBusy = none) : ∀ x ∈ s.instances, x.busy = false := by
  intro x hx
  obtain ⟨k, hk, rfl⟩ := List.getElem_of_mem hx
  have := List.find?_eq_none.mp h k (by simpa [s.instances_length] using hk)
  simpa [List.getElem?_eq_getElem hk] using this

theorem State.runInstance_cases (s : State) (k : Nat) :
    (k < s.nInstances ∧ (s.focus k).inst.busy = true ∧ s.runInstance k = (s.focus k).runCurrent) ∨
    s.runInstance k = .next s := by
  unfold State.runInstance
  split
  · next h =>
    simp only [Bool.and_eq_true, decide_eq_true_eq] at h
    exact .inl ⟨h.1, h.2, rfl⟩
  · exact .inr rfl

/-- Everything a poll can do: the read ends it, or it stands again while some command runs (R99). -/
theorem State.pollOnce_next {s t : State} {a mask value : Word} (h : s.pollOnce a mask value = .next t) :
    ∃ u, s.busRead a .word = .next u ∧
      (t = u ∨ State.runAny { u with agenda := .poll a mask value :: u.agenda } = .next t) := by
  unfold State.pollOnce at h
  split at h
  · next u hu =>
    refine ⟨u, hu, ?_⟩
    split at h
    · cases h; exact .inl rfl
    · exact .inr h
  · cases h
  · cases h

/-- No step ends in a fault: the type has no value (R274). -/
theorem step_no_fault (s : State) (r : Fault) : step s ≠ .fault r := nomatch r

/-- The machine with a command word placed runs it next. -/
theorem step_withFetchWord {s : State} (h : s.agenda = []) (nbits w : Nat) :
    step (s.withFetchWord nbits w) = (s.withFetchWord nbits w).runCurrent := by
  have ha : (s.withFetchWord nbits w).agenda = [] := by simp [State.runNext, h]
  have hb : (s.withFetchWord nbits w).inst.busy = true := rfl
  rw [step_of_empty ha, State.runAny, if_pos hb]

end Sys2Proof.Machine
end

