-- ==== Sys2Proof/Laws/Rules.lean ====
section
/-! SUPPORT. What every operation rule's claim needs: validation in the words of R144 and R145, the bytes outside DF, and
`RuleHolds` from the values a clean run stores. -/

namespace Sys2Proof.Machine
open Sys2Proof.Config

/-! ## Validation -/

theorem CmdRegs.sizeOk_iff (L : CmdRegs) : L.sizeOk = true ↔ SizeLegal L := by
  simp only [CmdRegs.sizeOk, SizeLegal, CmdRegs.signedWidth, CmdRegs.signedHeight, Bool.and_eq_true, bne_iff_ne,
    and_assoc, ne_eq]
  exact and_congr_left' decide_eq_true_iff

theorem CmdRegs.nullPlane_false_iff (L : CmdRegs) (req : List PlaneId) :
    L.nullPlane req = false ↔ ∀ p ∈ req, L.addrOf p ≠ 0 := by
  simp [CmdRegs.nullPlane]

/-- Validation passes exactly when no required plane is null and the size is legal (R144, R145). -/
theorem Operation.valid_iff (op : Operation) (L : CmdRegs) :
    op.valid L = true ↔ (∀ p ∈ op.req, L.addrOf p ≠ 0) ∧ SizeLegal L := by
  rw [Operation.valid, Bool.and_eq_true, CmdRegs.sizeOk_iff, Bool.not_eq_true', CmdRegs.nullPlane_false_iff]

/-- What a latched copy with a footprint is: a legal and valid command (R141, R273). -/
theorem jobOf_some {t : Tables} {L : CmdRegs} {j : Job} (h : jobOf t L = some j) :
    ∃ i, decode L.cmd = some i ∧ (ruleOf i).valid L = true ∧ j = (ruleOf i).job t L L.geometry := by
  unfold jobOf at h
  split at h
  · cases h
  · next i hi =>
    split at h
    · next hv => cases h; exact ⟨i, hi, hv, rfl⟩
    · cases h

/-- Running a command in flight that has a footprint, all of it Mapped (R153, R154). -/
theorem State.runCurrent_of_job {s : State} {f : InFlight} {j : Job} (hf : s.inst.inFlight = some f)
    (hj : jobOf s.plat.tables f.regs = some j) (hm : s.footprintMapped j = true) :
    s.runCurrent = .next ((s.perform j false).complete codeOk) := by
  obtain ⟨i, hi, hv, rfl⟩ := jobOf_some hj
  have hc : s.command = f.regs := by simp [State.command, hf]
  simp only [State.runCurrent, hc, hi, exec_eq_runOperation]
  rw [runOperation_mapped (by rwa [hc]) (by simpa only [Operation.jobOn, hc] using hm)]
  simp only [Operation.jobOn, hc]

/-! ## Bytes inside and outside DF -/

theorem outside_iff (j : Job) (a : Word) : Outside j.dsts a ↔ j.writes a = false := by
  rw [Bool.eq_false_iff, ne_eq, Job.writes_iff]
  simp [Outside, Plane.covers]

theorem Plane.covers_writes {j : Job} {d : Plane} {a : Word} (hd : d ∈ j.dsts) (ha : d.covers a) :
    j.writes a = true := by
  obtain ⟨r, hr, i, hi, h⟩ := ha
  exact (Job.writes_iff j a).mpr ⟨d, hd, r, hr, i, hi, h⟩

/-- A destination plane's bytes, as `NotStored` names them (R148, R150). -/
theorem dstPlane_not_covers {s : State} {p : PlaneId} {rows bytes : Nat} {a : Word} (h : NotStored s p rows bytes a) :
    ¬ (dstPlane s.command p rows bytes).covers a := fun ⟨r, hr, i, hi, e⟩ => h r hr i hi e

theorem i420Dst_outside {s : State} {a : Word} (h : NotStoredI420 s a) : Outside (i420Dst s.command s.geo) a := by
  intro p hp
  simp only [i420Dst, List.mem_cons, List.not_mem_nil, or_false] at hp
  rcases hp with rfl | rfl | rfl
  · exact dstPlane_not_covers h.1
  · exact dstPlane_not_covers h.2.1
  · exact dstPlane_not_covers h.2.2

/-- Reversing an iteration twice is no reversal (R147). -/
theorem iterationRow_involutive {flipped : Bool} {rows r : Nat} (h : r < rows) :
    iterationRow flipped rows r < rows ∧ iterationRow flipped rows (iterationRow flipped rows r) = r := by
  unfold iterationRow
  split <;> omega

/-! ## A rule from the values it stores -/

/-- A rule holds when its word decodes to it, `req` is its list of required planes, and its pseudocode follows from the
bytes a clean run stores and keeps. -/
theorem ruleHolds_of {i : Instr} {word : Word} {req : List PlaneId} {s : State} {post : State → Prop}
    (hd : decode word = some i) (hr : (ruleOf i).req = req)
    (hp : ∀ t : State,
      (∀ k p r b, ((ruleOf i).jobOn s).dsts[k]? = some p → r < p.rows → b < p.bytes →
        t.byte (p.byteAddr r b) =
          ((ruleOf i).jobOn s).value (s.sourceBytes ((ruleOf i).jobOn s) true) k r b) →
      (∀ a, Outside ((ruleOf i).jobOn s).dsts a → t.byte a = s.byte a) → post t) :
    RuleHolds i word req s post := by
  refine ⟨hd, fun h => ?_, fun h1 h2 h3 => ?_, fun hc => ?_⟩
  · rw [exec_eq_runOperation]
    refine runOperation_invalid ?_
    rw [Bool.eq_false_iff, ne_eq, Operation.valid_iff, hr]
    rintro ⟨h1, h2⟩
    rcases h with ⟨p, hp, hz⟩ | h
    · exact h1 p hp hz
    · exact h h2
  · rw [exec_eq_runOperation]
    exact ⟨_, runOperation_unmapped ((Operation.valid_iff _ _).mpr ⟨hr ▸ h1, h2⟩) h3, rfl⟩
  · obtain ⟨t, h1, h2, h3, h4⟩ := exec_of_cleanRun hc
    exact ⟨t, h1, h2, hp t h3 fun a ha => h4 a ((outside_iff _ _).mp ha)⟩

end Sys2Proof.Machine
end

