-- ==== Sys2Proof/Tests/Slice0.lean ====
section
/-! SUPPORT. The model's own tests and the witnesses of its statements. Every expected value is taken from
spec/95_test_vectors.md (the vector is named), or worked out from the rule a test names; none is the model's own answer. -/

namespace Sys2Proof.Tests
open Sys2Proof Sys2Proof.Machine Sys2Proof.Config

-- One theorem after another: with all of them checked at once Lean runs out of threads.
set_option Elab.async false

/-! ## Ill-formed terms, one per check of WellFormed.lean -/

theorem test_op_too_wide : CmdFields.wellFormed ⟨256, 0, 0, 0, 0⟩ = false := by decide
theorem test_sord_too_wide : CmdFields.wellFormed ⟨0x30, 4, 0, 0, 0⟩ = false := by decide
theorem test_dord_too_wide : CmdFields.wellFormed ⟨0x20, 0, 4, 0, 0⟩ = false := by decide
theorem test_lay_too_wide : CmdFields.wellFormed ⟨0x14, 0, 0, 2, 0⟩ = false := by decide
theorem test_reserved_bits_set : CmdFields.wellFormed ⟨0x01, 0, 0, 0, 1⟩ = false := by decide
theorem test_fields_fit : CmdFields.wellFormed ⟨0x3A, 3, 3, 0, 0⟩ = true := by decide

/-- R98: with two free fields, one suffix is too few. -/
theorem test_one_suffix_of_two : AsmCommand.wellFormed ⟨.RGB32REORDER, [.order .argb]⟩ = false := by decide

/-- R98: RGB24TORGB32 takes a 24-bit layout first. -/
theorem test_suffix_of_wrong_kind :
    AsmCommand.wellFormed ⟨.RGB24TORGB32, [.order .argb, .rgb24 .raw]⟩ = false := by decide

theorem test_suffixes_in_order :
    AsmCommand.wellFormed ⟨.RGB24TORGB32, [.rgb24 .raw, .order .argb]⟩ = true := by decide

/-! ## Decoding: words written out field by field, reserved ++ LAY ++ DORD ++ SORD ++ OP (R90, R93) -/

theorem test_decode_plane_ops :
    decode (0#19 ++ 0b0#1 ++ 0b00#2 ++ 0b00#2 ++ 0b00000001#8) = some .pcopy ∧
    decode (0#19 ++ 0b0#1 ++ 0b00#2 ++ 0b00#2 ++ 0b00000010#8) = some .pcopy2 ∧
    decode (0#19 ++ 0b0#1 ++ 0b00#2 ++ 0b00#2 ++ 0b00000011#8) = some .pmirror ∧
    decode (0#19 ++ 0b0#1 ++ 0b00#2 ++ 0b00#2 ++ 0b00000100#8) = some .pset ∧
    decode (0#19 ++ 0b0#1 ++ 0b00#2 ++ 0b00#2 ++ 0b00000101#8) = some .psplit2 := by decide

theorem test_decode_yuv_planar :
    decode (0#19 ++ 0b0#1 ++ 0b00#2 ++ 0b00#2 ++ 0b00010000#8) = some .i420copy ∧
    decode (0#19 ++ 0b0#1 ++ 0b00#2 ++ 0b00#2 ++ 0b00010001#8) = some .i420mirror ∧
    decode (0#19 ++ 0b0#1 ++ 0b00#2 ++ 0b00#2 ++ 0b00010010#8) = some .i420rect ∧
    decode (0#19 ++ 0b0#1 ++ 0b00#2 ++ 0b00#2 ++ 0b00010011#8) = some .i422toi420 ∧
    decode (0#19 ++ 0b0#1 ++ 0b00#2 ++ 0b00#2 ++ 0b00010100#8) = some (.nv420toi420 .nv12) ∧
    decode (0#19 ++ 0b1#1 ++ 0b00#2 ++ 0b00#2 ++ 0b00010100#8) = some (.nv420toi420 .m420) ∧
    decode (0#19 ++ 0b0#1 ++ 0b00#2 ++ 0b01#2 ++ 0b00010101#8) = some (.p422toi420 .uyvy) := by decide

theorem test_decode_yuv_to_rgb :
    decode (0#19 ++ 0b0#1 ++ 0b11#2 ++ 0b00#2 ++ 0b00100000#8) = some (.i420torgb32 .rgba) ∧
    decode (0#19 ++ 0b0#1 ++ 0b10#2 ++ 0b00#2 ++ 0b00100001#8) = some (.i422torgb32 .abgr) ∧
    decode (0#19 ++ 0b0#1 ++ 0b00#2 ++ 0b00#2 ++ 0b00100010#8) = some (.i444torgb32 .argb) ∧
    decode (0#19 ++ 0b0#1 ++ 0b01#2 ++ 0b00#2 ++ 0b00100011#8) = some (.i400torgb32 .bgra) := by decide

theorem test_decode_rgb_pack :
    decode (0#19 ++ 0b0#1 ++ 0b00#2 ++ 0b10#2 ++ 0b00110000#8) = some (.rgb32torgb565 .abgr) ∧
    decode (0#19 ++ 0b0#1 ++ 0b00#2 ++ 0b01#2 ++ 0b00110001#8) = some (.rgb32toargb1555 .bgra) ∧
    decode (0#19 ++ 0b0#1 ++ 0b00#2 ++ 0b11#2 ++ 0b00110010#8) = some (.rgb32toargb4444 .rgba) ∧
    decode (0#19 ++ 0b0#1 ++ 0b01#2 ++ 0b11#2 ++ 0b00111000#8) = some (.rgb32torgb24 .rgba .raw) ∧
    decode (0#19 ++ 0b0#1 ++ 0b10#2 ++ 0b01#2 ++ 0b00111001#8) = some (.rgb24torgb32 .raw .abgr) ∧
    decode (0#19 ++ 0b0#1 ++ 0b10#2 ++ 0b01#2 ++ 0b00111010#8) = some (.rgb32reorder .bgra .abgr) := by decide

theorem test_decode_rgb_to_yuv :
    decode (0#19 ++ 0b0#1 ++ 0b00#2 ++ 0b01#2 ++ 0b01000000#8) = some (.rgb32toi400 .bgra) ∧
    decode (0#19 ++ 0b0#1 ++ 0b00#2 ++ 0b10#2 ++ 0b01000001#8) = some (.rgb32toi420 .abgr) := by decide

/-- D-EN1, 3, 4, 6, 8, 9, 10, 11, 12, 13, 17: illegal words. -/
theorem test_decode_illegal :
    ([0x0, 0x101, 0x2020, 0x320, 0x239, 0x838, 0x1015, 0x6, 0x42, 0xFFFFFFFF, 0xC32].all
      fun w => (decode (BitVec.ofNat 32 w)).isNone) = true := by decide

/-- The mnemonic checks of section 2.1. -/
theorem test_assembler_words :
    (AsmCommand.assemble ⟨.I420TORGB32, [.order .abgr]⟩).map encode = some 0x820 ∧
    (AsmCommand.assemble ⟨.RGB32REORDER, [.order .argb, .order .bgra]⟩).map encode = some 0x43A ∧
    Pseudo.word .RAWTOARGB = some 0x139 ∧ Pseudo.word .ARGBTORAW = some 0x438 ∧
    Pseudo.word .M420TOI420 = some 0x1014 := by decide

/-! ## One command, one step -/

/-- A plane at an address with a stride; the default is an unused plane. -/
structure P where
  addr   : Nat
  stride : Int

/-- A test vector of spec/95_test_vectors.md: the command word, the registers it names, and the memory it lists. -/
structure Vec where
  cmd  : Nat
  w    : Int
  h    : Int
  src0 : P := ⟨0, 0⟩
  s2   : Int := 0
  src1 : P := ⟨0, 0⟩
  src2 : P := ⟨0, 0⟩
  dst0 : P := ⟨0, 0⟩
  dst1 : P := ⟨0, 0⟩
  dst2 : P := ⟨0, 0⟩
  fill : Nat := 0
  mem  : List (Nat × List Nat) := []

def P.regs (p : P) : PlaneRegs := ⟨BitVec.ofNat 32 p.addr, BitVec.ofInt 32 p.stride⟩

def Vec.regs (v : Vec) : CmdRegs where
  cmd         := BitVec.ofNat 32 v.cmd
  width       := BitVec.ofInt 32 v.w
  height      := BitVec.ofInt 32 v.h
  fill        := BitVec.ofNat 32 v.fill
  src0        := v.src0.regs
  src0Stride2 := BitVec.ofInt 32 v.s2
  src1        := v.src1.regs
  src2        := v.src2.regs
  dst0        := v.dst0.regs
  dst1        := v.dst1.regs
  dst2        := v.dst2.regs

/-- Memory holding a list of (address, bytes). -/
def memoryOf (l : List (Nat × List Nat)) : Memory :=
  l.foldl (fun m x => m.writeAll (x.2.zipIdx.map fun b => (BitVec.ofNat 32 (x.1 + b.2), BitVec.ofNat 8 b.1))) []

/-- An instance on which the vector's command has been started. -/
def Vec.inst (v : Vec) : CscInstance := CscInstance.start { CscInstance.reset with regs := v.regs }

/-- The machine with the vector's command in flight. -/
def Vec.state (v : Vec) : State := { State.reset with inst := v.inst, mem := memoryOf v.mem }

/-- One step from a state completes with RESULT `code`, STATUS `status`, and memory holding the bytes listed. -/
def completes (s : State) (code : Int) (status : Word) (out : List (Nat × List Nat)) : Bool :=
  match step s with
  | .next t =>
    t.inst.result == BitVec.ofInt 32 code && t.inst.statusWord == status && t.mem.wf &&
      out.all fun x => (t.mem.readBytes (BitVec.ofNat 32 x.1) x.2.length).map (·.toNat) == x.2
  | _ => false

/-- A vector's command completes with 0, STATUS = DONE, and memory holding the bytes listed; and it is the run of `i`
that `RuleHolds` speaks of, `cleanRun` being true of it. -/
def Vec.gives (v : Vec) (i : Instr) (out : List (Nat × List Nat)) : Bool :=
  cleanRun i v.state && decode v.state.command.cmd == some i && completes v.state 0 2 out

/-- D-VA1. -/
def vPcopy : Vec := { cmd := 1, w := 4, h := 1, src0 := ⟨0x1000, 4⟩, dst0 := ⟨0x2000, 4⟩, mem := [(0x1000, [1, 2, 3, 4])] }

theorem test_pcopy : vPcopy.gives .pcopy [(0x2000, [1, 2, 3, 4])] = true := by decide +kernel

/-- D-PO1: a flip reverses the rows. -/
theorem test_pcopy_flip :
    Vec.gives { cmd := 1, w := 3, h := -2, src0 := ⟨0x1000, 16⟩, dst0 := ⟨0x2000, 3⟩,
                mem := [(0x1000, [1, 2, 3]), (0x1010, [4, 5, 6])] } .pcopy
      [(0x2000, [4, 5, 6, 1, 2, 3])] = true := by decide +kernel

/-- D-PO2. -/
theorem test_pcopy2 :
    Vec.gives { cmd := 2, w := 2, h := 4, src0 := ⟨0x1000, 0x10⟩, s2 := 0x20, dst0 := ⟨0x2000, 2⟩,
                mem := [(0x1000, [10, 11]), (0x1010, [20, 21]), (0x1030, [30, 31]), (0x1040, [40, 41])] } .pcopy2
      [(0x2000, [10, 11, 20, 21, 30, 31, 40, 41])] = true := by decide +kernel

/-- D-PO5. -/
def vPmirror : Vec :=
  { cmd := 3, w := 3, h := -2, src0 := ⟨0x1000, 16⟩, dst0 := ⟨0x2000, 3⟩,
    mem := [(0x1000, [1, 2, 3]), (0x1010, [4, 5, 6])] }

theorem test_pmirror : vPmirror.gives .pmirror [(0x2000, [6, 5, 4, 3, 2, 1])] = true := by decide +kernel

/-- W4: the padding is untouched (R67). -/
theorem test_pset :
    Vec.gives { cmd := 4, w := 3, h := 2, dst0 := ⟨0x2000, 4⟩, fill := 0x7F,
                mem := [(0x2000, [9, 9, 9, 9, 9, 9, 9, 9])] } .pset
      [(0x2000, [127, 127, 127, 9, 127, 127, 127, 9])] = true := by decide +kernel

/-- W8. -/
theorem test_psplit2 :
    Vec.gives { cmd := 5, w := 2, h := 1, src0 := ⟨0x1000, 4⟩, dst0 := ⟨0x2000, 2⟩, dst1 := ⟨0x3000, 2⟩,
                mem := [(0x1000, [1, 2, 3, 4])] } .psplit2
      [(0x2000, [1, 3]), (0x3000, [2, 4])] = true := by decide +kernel

/-- A 3x3 planar frame: D-YP1 and D-YP2's inputs. -/
def frame33 (cmd : Nat) (h : Int) : Vec :=
  { cmd := cmd, w := 3, h := h, src0 := ⟨0x1000, 3⟩, src1 := ⟨0x1100, 2⟩, src2 := ⟨0x1200, 2⟩, dst0 := ⟨0x2000, 3⟩,
    dst1 := ⟨0x2100, 2⟩, dst2 := ⟨0x2200, 2⟩,
    mem := [(0x1000, [1, 2, 3, 4, 5, 6, 7, 8, 9]), (0x1100, [10, 11, 12, 13]), (0x1200, [20, 21, 22, 23])] }

/-- D-YP1. -/
theorem test_i420copy : (frame33 0x10 (-3)).gives .i420copy
    [(0x2000, [7, 8, 9, 4, 5, 6, 1, 2, 3]), (0x2100, [12, 13, 10, 11]), (0x2200, [22, 23, 20, 21])] = true := by
  decide +kernel

/-- D-YP2. -/
theorem test_i420mirror : (frame33 0x11 3).gives .i420mirror
    [(0x2000, [3, 2, 1, 6, 5, 4, 9, 8, 7]), (0x2100, [11, 10, 13, 12]), (0x2200, [21, 20, 23, 22])] = true := by
  decide +kernel

/-- D-YP3. -/
theorem test_i420rect : Vec.gives { frame33 0x12 3 with fill := 0x00C08010 } .i420rect
    [(0x2000, [16, 16, 16, 16, 16, 16, 16, 16, 16]), (0x2100, [128, 128, 128, 128]),
     (0x2200, [192, 192, 192, 192])] = true := by decide +kernel

/-- D-YP5: an odd height and a flip. -/
theorem test_i422toi420 :
    Vec.gives { cmd := 0x13, w := 1, h := -3, src0 := ⟨0x1000, 1⟩, src1 := ⟨0x1100, 1⟩, src2 := ⟨0x1200, 1⟩,
                dst0 := ⟨0x2000, 1⟩, dst1 := ⟨0x2100, 1⟩, dst2 := ⟨0x2200, 1⟩,
                mem := [(0x1000, [1, 2, 3]), (0x1100, [10, 21, 40]), (0x1200, [0, 255, 7])] } .i422toi420
      [(0x2000, [3, 2, 1]), (0x2100, [31, 10]), (0x2200, [131, 0])] = true := by decide +kernel

/-- D-YP6. -/
theorem test_nv420toi420_nv12 :
    Vec.gives { frame33 0x14 (-3) with
                src1 := ⟨0x1100, 4⟩, src2 := ⟨0, 0⟩,
                mem := [(0x1000, [1, 2, 3, 4, 5, 6, 7, 8, 9]), (0x1100, [10, 11, 12, 13, 20, 21, 22, 23])] }
      (.nv420toi420 .nv12)
      [(0x2000, [7, 8, 9, 4, 5, 6, 1, 2, 3]), (0x2100, [20, 22, 10, 12]), (0x2200, [21, 23, 11, 13])] = true := by
  decide +kernel

/-- D-YP8, SRC1 being 0 (D-VA14). -/
theorem test_nv420toi420_m420 :
    Vec.gives { cmd := 0x1014, w := 2, h := -4, src0 := ⟨0x1000, 2⟩, dst0 := ⟨0x2000, 2⟩, dst1 := ⟨0x2100, 1⟩,
                dst2 := ⟨0x2200, 1⟩, mem := [(0x1000, [1, 2, 3, 4, 50, 60, 5, 6, 7, 8, 70, 80])] }
      (.nv420toi420 .m420)
      [(0x2000, [7, 8, 5, 6, 3, 4, 1, 2]), (0x2100, [70, 50]), (0x2200, [80, 60])] = true := by decide +kernel

/-- D-YP9: UYVY. -/
theorem test_p422toi420 :
    Vec.gives { cmd := 0x115, w := 3, h := 3, src0 := ⟨0x1000, 8⟩, dst0 := ⟨0x2000, 3⟩, dst1 := ⟨0x2100, 2⟩,
                dst2 := ⟨0x2200, 2⟩,
                mem := [(0x1000, [10, 1, 20, 2, 11, 3, 21, 99, 30, 4, 40, 5, 31, 6, 41, 98,
                                  50, 7, 60, 8, 51, 9, 61, 97])] } (.p422toi420 .uyvy)
      [(0x2000, [1, 2, 3, 4, 5, 6, 7, 8, 9]), (0x2100, [20, 21, 50, 51]), (0x2200, [30, 31, 60, 61])] = true := by
  decide +kernel

/-- W9: YUYV. -/
theorem test_p422toi420_yuyv :
    Vec.gives { cmd := 0x15, w := 2, h := 2, src0 := ⟨0x1000, 4⟩, dst0 := ⟨0x2000, 2⟩, dst1 := ⟨0x2100, 1⟩,
                dst2 := ⟨0x2200, 1⟩, mem := [(0x1000, [1, 10, 2, 30, 3, 20, 4, 40])] } (.p422toi420 .yuyv)
      [(0x2000, [1, 2, 3, 4]), (0x2100, [15]), (0x2200, [35])] = true := by decide +kernel

/-- D-YR3: an odd height and a flip, which is not the reversal of the unflipped output. -/
theorem test_i420torgb32 :
    Vec.gives { cmd := 0x20, w := 3, h := -3, src0 := ⟨0x1000, 3⟩, src1 := ⟨0x1100, 2⟩, src2 := ⟨0x1200, 2⟩,
                dst0 := ⟨0x2000, 12⟩,
                mem := [(0x1000, [16, 235, 81, 16, 235, 81, 126, 126, 126]), (0x1100, [128, 90, 128, 54]),
                        (0x1200, [128, 240, 128, 34])] } (.i420torgb32 .argb)
      [(0x2000, [128, 128, 128, 255, 128, 128, 128, 255, 0, 233, 0, 255]),
       (0x200C, [0, 0, 0, 255, 254, 254, 254, 255, 0, 181, 0, 255]),
       (0x2018, [0, 0, 0, 255, 254, 254, 254, 255, 0, 0, 254, 255])] = true := by decide +kernel

/-- D-YR4: order RGBA. -/
theorem test_i420torgb32_rgba :
    Vec.gives { cmd := 0xC20, w := 1, h := 1, src0 := ⟨0x1000, 1⟩, src1 := ⟨0x1100, 1⟩, src2 := ⟨0x1200, 1⟩,
                dst0 := ⟨0x2000, 4⟩, mem := [(0x1000, [81]), (0x1100, [90]), (0x1200, [240])] } (.i420torgb32 .rgba)
      [(0x2000, [255, 0, 0, 254])] = true := by decide +kernel

/-- D-YR5. -/
theorem test_i422torgb32 :
    Vec.gives { cmd := 0x821, w := 2, h := 2, src0 := ⟨0x1000, 2⟩, src1 := ⟨0x1100, 1⟩, src2 := ⟨0x1200, 1⟩,
                dst0 := ⟨0x2000, 8⟩,
                mem := [(0x1000, [145, 145, 41, 41]), (0x1100, [54, 240]), (0x1200, [34, 110])] } (.i422torgb32 .abgr)
      [(0x2000, [0, 255, 0, 255, 0, 255, 0, 255, 0, 0, 255, 255, 0, 0, 255, 255])] = true := by decide +kernel

/-- D-YR7. -/
theorem test_i444torgb32 :
    Vec.gives { cmd := 0x22, w := 1, h := 2, src0 := ⟨0x1000, 1⟩, src1 := ⟨0x1100, 1⟩, src2 := ⟨0x1200, 1⟩,
                dst0 := ⟨0x2000, 4⟩,
                mem := [(0x1000, [41, 145]), (0x1100, [240, 54]), (0x1200, [110, 34])] } (.i444torgb32 .argb)
      [(0x2000, [255, 0, 0, 255, 0, 255, 0, 255])] = true := by decide +kernel

/-- D-YR8. -/
theorem test_i400torgb32 :
    Vec.gives { cmd := 0x423, w := 2, h := 1, src0 := ⟨0x1000, 2⟩, dst0 := ⟨0x2000, 8⟩, mem := [(0x1000, [16, 236])] }
      (.i400torgb32 .bgra) [(0x2000, [255, 0, 0, 0, 255, 255, 255, 255])] = true := by decide +kernel

/-- D-PK3. -/
theorem test_rgb32torgb565 :
    Vec.gives { cmd := 0x230, w := 2, h := 1, src0 := ⟨0x1000, 8⟩, dst0 := ⟨0x2000, 4⟩,
                mem := [(0x1000, [0x56, 0x34, 0x12, 0x9A, 0x00, 0x80, 0xFF, 0x01])] } (.rgb32torgb565 .abgr)
      [(0x2000, [0xA2, 0x51, 0x1F, 0x04])] = true := by decide +kernel

/-- D-PK2. -/
theorem test_rgb32toargb1555 :
    Vec.gives { cmd := 0x31, w := 1, h := 1, src0 := ⟨0x1000, 4⟩, dst0 := ⟨0x2000, 2⟩,
                mem := [(0x1000, [0x12, 0x34, 0x56, 0x9A])] } (.rgb32toargb1555 .argb)
      [(0x2000, [0xC2, 0xA8])] = true := by decide +kernel

/-- D-PK4. -/
theorem test_rgb32toargb4444 :
    Vec.gives { cmd := 0x332, w := 1, h := 1, src0 := ⟨0x1000, 4⟩, dst0 := ⟨0x2000, 2⟩,
                mem := [(0x1000, [0x9A, 0x12, 0x34, 0x56])] } (.rgb32toargb4444 .rgba)
      [(0x2000, [0x31, 0x95])] = true := by decide +kernel

/-- D-PK5. -/
theorem test_rgb32torgb24 :
    Vec.gives { cmd := 0x738, w := 1, h := 2, src0 := ⟨0x1000, 4⟩, dst0 := ⟨0x2000, 3⟩,
                mem := [(0x1000, [0xAA, 0x11, 0x22, 0x33, 0xBB, 0x44, 0x55, 0x66])] } (.rgb32torgb24 .rgba .raw)
      [(0x2000, [0x33, 0x22, 0x11, 0x66, 0x55, 0x44])] = true := by decide +kernel

/-- D-PK8. -/
theorem test_rgb24torgb32 :
    Vec.gives { cmd := 0xD39, w := 1, h := -2, src0 := ⟨0x1000, 3⟩, dst0 := ⟨0x2000, 4⟩,
                mem := [(0x1000, [1, 2, 3, 4, 5, 6])] } (.rgb24torgb32 .raw .rgba)
      [(0x2000, [255, 6, 5, 4, 255, 3, 2, 1])] = true := by decide +kernel

/-- D-PK10. -/
theorem test_rgb32reorder :
    Vec.gives { cmd := 0xB3A, w := 1, h := 1, src0 := ⟨0x1000, 4⟩, dst0 := ⟨0x2000, 4⟩,
                mem := [(0x1000, [1, 2, 3, 4])] } (.rgb32reorder .rgba .abgr)
      [(0x2000, [4, 3, 2, 1])] = true := by decide +kernel

/-- D-PK11: in place. -/
theorem test_rgb32reorder_in_place :
    Vec.gives { cmd := 0x43A, w := 2, h := 1, src0 := ⟨0x1000, 8⟩, dst0 := ⟨0x1000, 8⟩,
                mem := [(0x1000, [1, 2, 3, 4, 5, 6, 7, 8])] } (.rgb32reorder .argb .bgra)
      [(0x1000, [4, 3, 2, 1, 8, 7, 6, 5])] = true := by decide +kernel

/-- D-RY3. -/
theorem test_rgb32toi400 :
    Vec.gives { cmd := 0x140, w := 2, h := 1, src0 := ⟨0x1000, 8⟩, dst0 := ⟨0x2000, 2⟩,
                mem := [(0x1000, [0, 0, 255, 255, 255, 255, 255, 255])] } (.rgb32toi400 .bgra)
      [(0x2000, [169, 235])] = true := by decide +kernel

/-- D-RY6. -/
theorem test_rgb32toi420 :
    Vec.gives { cmd := 0x241, w := 2, h := -2, src0 := ⟨0x1000, 8⟩, dst0 := ⟨0x2000, 2⟩, dst1 := ⟨0x2100, 1⟩,
                dst2 := ⟨0x2200, 1⟩,
                mem := [(0x1000, [255, 0, 0, 9, 0, 0, 0, 9, 255, 255, 255, 9, 0, 0, 255, 9])] } (.rgb32toi420 .abgr)
      [(0x2000, [235, 41, 82, 16]), (0x2100, [147]), (0x2200, [152])] = true := by decide +kernel

/-- D-RY5: an odd width, the last column alone. -/
theorem test_rgb32toi420_odd_width :
    Vec.gives { cmd := 0x41, w := 3, h := 1, src0 := ⟨0x1000, 12⟩, dst0 := ⟨0x2000, 3⟩, dst1 := ⟨0x2100, 2⟩,
                dst2 := ⟨0x2200, 2⟩,
                mem := [(0x1000, [255, 0, 0, 0, 0, 255, 0, 0, 0, 0, 255, 0])] } (.rgb32toi420 .argb)
      [(0x2000, [41, 144, 82]), (0x2100, [147, 90]), (0x2200, [72, 240])] = true := by decide +kernel

/-! ## Validation, errors and the wrap of addresses -/

/-- D-VA2, D-VA4 to D-VA7: each is also a witness of a clause of `FailedChecksTouchNothing`. -/
theorem test_invalid_argument :
    completes { vPcopy with src0 := ⟨0, 4⟩ }.state (-1) 6 [(0x2000, [0, 0, 0, 0])] = true ∧
    completes { vPcopy with w := 0 }.state (-1) 6 [(0x2000, [0, 0, 0, 0])] = true ∧
    completes { vPcopy with w := -1 }.state (-1) 6 [(0x2000, [0, 0, 0, 0])] = true ∧
    completes { vPcopy with h := 0 }.state (-1) 6 [(0x2000, [0, 0, 0, 0])] = true ∧
    completes { vPcopy with h := -2147483648 }.state (-1) 6 [(0x2000, [0, 0, 0, 0])] = true := by decide +kernel

/-- D-VA9: decode is checked first. -/
def vIllegal : Vec := { vPcopy with cmd := 0x101, src0 := ⟨0, 4⟩ }

theorem test_illegal_command : completes vIllegal.state (-2) 6 [(0x2000, [0, 0, 0, 0])] = true := by decide +kernel

/-- D-VA11: memory ends at 0x2004, inside the destination. -/
def sUnmapped : State :=
  { { vPcopy with h := 2 }.state with plat := { Platform.atReset with memory := [⟨0, 0x2004⟩] } }

theorem test_bus_error :
    (match step sUnmapped with
      | .next t => t.inst.result == BitVec.ofInt 32 (-3) && t.inst.statusWord == 6
      | _ => false) = true := by decide +kernel

/-- D-ME1: a source row that wraps around the address space. -/
theorem test_source_wraps :
    Vec.gives { vPcopy with src0 := ⟨0xFFFFFFFE, 4⟩, mem := [(0xFFFFFFFE, [1, 2]), (0, [3, 4])] } .pcopy
      [(0x2000, [1, 2, 3, 4])] = true := by decide +kernel

/-- D-RY1: the forward functions on the primaries, and the floor of a negative sum. -/
theorem test_forward_primaries :
    rgb2y 255 0 0 = 82 ∧ rgb2u 255 0 0 = 90 ∧ rgb2v 255 0 0 = 240 ∧ rgb2y 0 255 0 = 144 ∧ rgb2u 0 255 0 = 54 ∧
    rgb2v 0 255 0 = 34 ∧ rgb2y 0 0 255 = 41 ∧ rgb2u 0 0 255 = 240 ∧ rgb2v 0 0 255 = 110 ∧ rgb2v 1 2 3 = 127 ∧
    avg4 0 0 0 3 = 0 ∧ avg2 10 20 = 15 := by decide

/-- W5, W6 and R112(d): black, white and the first luma that reaches 255. -/
theorem test_yuv_fixed_points :
    yuv2rgb defaultTables 16 128 128 = ⟨0, 0, 0, 255⟩ ∧ yuv2rgb defaultTables 235 128 128 = ⟨254, 254, 254, 255⟩ ∧
    yuv2rgb defaultTables 236 128 128 = ⟨255, 255, 255, 255⟩ := by decide +kernel

/-! ## The register window -/

/-- The data one bus read returns. -/
def reads (s : State) (off : Nat) (v : Word) : Bool :=
  match s.busRead (s.windowBase s.current + BitVec.ofNat 32 off) .word with
  | .next t => t.readData == v
  | _ => false

/-- The state after a bus write to the current instance's window; unchanged where it is refused. -/
def written (s : State) (off : Nat) (v : Word) : State :=
  match s.busWrite (s.windowBase s.current + BitVec.ofNat 32 off) .word v with
  | .next t => t
  | _ => s

/-- D-ST1. -/
theorem test_reset_reads :
    reads State.reset 0x00 0x43534301 = true ∧
    ([0x04, 0x08, 0x0C, 0x10, 0x2C, 0xFC].all fun off => reads State.reset off 0) = true ∧
    reads (written State.reset 0x00 0xFFFFFFFF) 0x00 0x43534301 = true ∧
    reads (written State.reset 0x2C 0x1234) 0x2C 0 = true := by decide +kernel

/-- D-ST10. -/
theorem test_reserved_bits :
    reads (written State.reset 0x04 0xFFFFFFFA) 0x04 2 = true ∧
    reads (written State.reset 0x1C 0xFFFFFFFF) 0x1C 0x00FFFFFF = true := by decide +kernel

/-- An idle instance that has completed a failed command, with interrupts enabled (D-ST4 after its step 1). -/
def sFailed : State :=
  { State.reset with
    inst := { CscInstance.reset with irqEn := true, done := true, err := true, result := codeIllegalCommand } }

/-- D-ST4: the acknowledge of DONE alone, then of ERR. -/
theorem test_acknowledge :
    sFailed.inst.irq = true ∧ reads (written sFailed 0x08 2) 0x08 4 = true ∧ (written sFailed 0x08 2).inst.irq = false ∧
    reads (written (written sFailed 0x08 2) 0x08 4) 0x08 0 = true := by decide +kernel

/-- D-ST5: START clears the previous outcome, RESULT unchanged. -/
theorem test_start :
    reads (written sFailed 0x04 1) 0x08 1 = true ∧ (written sFailed 0x04 1).inst.irq = false ∧
    reads (written sFailed 0x04 1) 0x0C 0xFFFFFFFE = true := by decide +kernel

/-- D-ST3: IRQ_EN written without START raises the line of a completed command and starts nothing. -/
theorem test_late_enable :
    (written { sFailed with inst := { sFailed.inst with irqEn := false } } 0x04 2).inst = sFailed.inst ∧
    sFailed.inst.irq = true := by decide +kernel

/-- D-ST6: START while BUSY is ignored, but IRQ_EN is updated. -/
theorem test_start_while_busy :
    (written vPcopy.state 0x04 3).inst = { vPcopy.state.inst with irqEn := true } := by decide +kernel

/-- D-ST7: START with SOFT_RESET is a soft reset only. -/
theorem test_soft_reset_idle : (written sFailed 0x04 5).inst = CscInstance.reset := by decide +kernel

/-- R99: a host program's step on the agenda: P1's `WR 0x14, 2`. -/
theorem test_host_write :
    (match step { State.reset with agenda := [hostWR Platform.atReset 0 0x14 2] } with
      | .next t => t.inst.regs.width == 2 && t.agenda.isEmpty
      | _ => false) = true := by decide +kernel

/-! ## The host's interface -/

theorem test_table_word : decodeTableWord 32 0x0000043A = some (.rgb32reorder .argb .bgra) := by decide

theorem test_withFetchWord :
    (State.reset.withFetchWord 32 0x41).inst.inFlight = some ⟨CmdRegs.reset.withCmd 0x41, false⟩ ∧
    step (State.reset.withFetchWord 32 0x41) =
      exec (.rgb32toi420 .argb) (State.reset.withFetchWord 32 0x41) := by
  exact ⟨by decide, rfl⟩

/-! ## Witnesses: for each statement with hypotheses, a concrete state that meets them, clause by clause

The clean runs of the 23 rules are the vectors above: `Vec.gives` includes `cleanRun`. -/

/-- One command of each constructor, with both layouts of NV420TOI420. -/
def everyCommand : List Instr :=
  [.pcopy, .pcopy2, .pmirror, .pset, .psplit2, .i420copy, .i420mirror, .i420rect, .i422toi420, .nv420toi420 .nv12,
   .nv420toi420 .m420, .p422toi420 .yuyv, .i420torgb32 .argb, .i422torgb32 .argb, .i444torgb32 .argb,
   .i400torgb32 .argb, .rgb32torgb565 .argb, .rgb32toargb1555 .argb, .rgb32toargb4444 .argb,
   .rgb32torgb24 .argb .rgb24, .rgb24torgb32 .rgb24 .argb, .rgb32reorder .argb .argb, .rgb32toi400 .argb,
   .rgb32toi420 .argb]

/-- A 1x1 command with every plane in a place of its own, on a machine whose memory is `regions`. -/
def onePixel (i : Instr) (regions : List Region) : State :=
  { Vec.state { cmd := (encode i).toNat, w := 1, h := 1, src0 := ⟨0x1000, 4⟩, src1 := ⟨0x1100, 4⟩,
                src2 := ⟨0x1200, 4⟩, dst0 := ⟨0x2000, 4⟩, dst1 := ⟨0x2100, 4⟩, dst2 := ⟨0x2200, 4⟩ } with
    plat := { Platform.atReset with memory := regions } }

/-- `RuleHolds`, second clause: a null plane, or an illegal size, for every command. -/
theorem witness_rule_invalid (i : Instr) :
    (∃ p ∈ (ruleOf i).req, State.reset.command.addrOf p = 0) ∧ ¬ SizeLegal State.reset.command := by
  refine ⟨⟨.dst0, ?_, rfl⟩, fun h => absurd h.1 (by decide)⟩
  cases i with
  | nv420toi420 l => cases l <;> decide
  | _ => first
    | decide
    | exact List.mem_cons_of_mem _ List.mem_cons_self
    | exact List.mem_cons_of_mem _ (List.mem_cons_of_mem _ (List.mem_cons_of_mem _ List.mem_cons_self))

/-- `RuleHolds`, third clause: a valid command whose footprint is not Mapped, for every command. -/
theorem witness_rule_unmapped :
    (everyCommand.all fun i => (ruleOf i).valid (onePixel i []).command &&
      !(onePixel i []).footprintMapped ((ruleOf i).jobOn (onePixel i []))) = true := by decide +kernel

/-- `RuleHolds`, last clause, for every command at the smallest frame. -/
theorem witness_rule_clean :
    (everyCommand.all fun i => cleanRun i (onePixel i [⟨0, 2 ^ 32⟩])) = true := by decide +kernel

/-- The frame of the plane rules is not empty: a byte after the plane, and every byte before it. -/
theorem witness_not_stored :
    NotStored vPcopy.state .dst0 1 4 0x2004 ∧ NotStored vPcopy.state .dst0 1 4 0x1FFF ∧
    NotStoredI420 (frame33 0x10 3).state 0x2009 := by
  unfold NotStoredI420 NotStored
  decide +kernel

/-- `StepRunsTheDecodedCommand`. -/
theorem witness_step_runs :
    vPcopy.state.inst.inFlight = some ⟨vPcopy.regs, false⟩ ∧ decode vPcopy.regs.cmd = some .pcopy ∧
    vPcopy.state.agenda = [] ∧
    vPcopy.state.instances[0]? = some vPcopy.inst ∧ 0 = vPcopy.state.current ∧
    { vPcopy.state with agenda := [.run 0] }.agenda = .run vPcopy.state.current :: [] := by decide +kernel

/-- A command in flight on the second instance, the current one idle. -/
def sSecond : State := { State.reset with after := [vPcopy.inst] }

/-- `StepRunsTheDecodedCommand`: an instance that is not the current one. -/
theorem witness_step_runs_other :
    sSecond.instances[1]? = some vPcopy.inst ∧ vPcopy.inst.inFlight = some ⟨vPcopy.regs, false⟩ ∧
    decode vPcopy.regs.cmd = some .pcopy ∧ sSecond.agenda = [] ∧ sSecond.inst.inFlight = none ∧
    (∀ m < 1, (sSecond.instances[m]?).all (fun y => y.inFlight.isNone) = true) ∧
    { sSecond with agenda := [.run 1] }.agenda = .run 1 :: [] := by decide +kernel

/-- `FailedChecksTouchNothing`, first clause; `ResultFollowsPriority`. -/
theorem witness_illegal :
    vIllegal.state.agenda = [] ∧ vIllegal.state.inst.inFlight = some ⟨vIllegal.regs, false⟩ ∧
    decode vIllegal.regs.cmd = none := by decide +kernel

/-- `FailedChecksTouchNothing`, and the size clause of `ResultFollowsPriority`: sizes at the ends of their ranges. -/
theorem witness_bad_sizes :
    sext32 { vPcopy with w := 0 }.state.command.width ≤ 0 ∧ sext32 { vPcopy with h := 0 }.state.command.height = 0 ∧
    sext32 { vPcopy with h := -2 ^ 31 }.state.command.height = -2 ^ 31 ∧
    (∀ p ∈ (ruleOf .pcopy).req, { vPcopy with w := 0 }.regs.addrOf p ≠ 0) := by decide +kernel

/-- `ResultFollowsPriority`, its last two clauses: a footprint that is not Mapped, and one that is. -/
theorem witness_priority :
    (ruleOf .pcopy).valid sUnmapped.command = true ∧
    sUnmapped.footprintMapped ((ruleOf .pcopy).jobOn sUnmapped) = false ∧
    (ruleOf .pcopy).valid vPcopy.state.command = true ∧
    vPcopy.state.footprintMapped ((ruleOf .pcopy).jobOn vPcopy.state) = true := by decide +kernel

/-- `BusErrorEffects`: otherwise well-defined, with a Mapped and an unmapped destination byte and a Mapped, visible
source byte. -/
theorem witness_bus_error :
    sUnmapped.unspecified ((ruleOf .pcopy).jobOn sUnmapped) = false ∧ sUnmapped.mapped 0x2003 = true ∧
    ((ruleOf .pcopy).jobOn sUnmapped).writes 0x2003 = true ∧ sUnmapped.mapped 0x2004 = false ∧
    sUnmapped.mapped 0x1000 = true ∧ sUnmapped.hiddenFromBlock 0x1000 = false := by decide +kernel

/-- `MemoryOutsideDestinationKept`: a padding byte, and a source byte. -/
theorem witness_outside :
    (∃ t, exec .pcopy vPcopy.state = .next t) ∧ Outside ((ruleOf .pcopy).jobOn vPcopy.state).dsts 0x2004 ∧
    Outside ((ruleOf .pcopy).jobOn vPcopy.state).dsts 0x1000 :=
  ⟨⟨_, rfl⟩, (outside_iff _ _).mpr (by decide +kernel), (outside_iff _ _).mpr (by decide +kernel)⟩

/-- Two rows at one address. -/
def sTwice : State := { vPcopy with h := 2, dst0 := ⟨0x2000, 0⟩ }.state

/-- A destination two bytes into the source. -/
def sOverlap : State := { vPcopy with dst0 := ⟨0x1002, 4⟩ }.state

/-- `IllFormedCommandLeavesFreeBytes`, first clause. -/
theorem witness_written_twice :
    (ruleOf .pcopy).valid sTwice.command = true ∧ sTwice.footprintMapped ((ruleOf .pcopy).jobOn sTwice) = true ∧
    ∃ p, ((ruleOf .pcopy).jobOn sTwice).dsts[0]? = some p ∧ 1 < p.rows ∧ 0 < p.bytes ∧
      p.byteAddr 0 0 = p.byteAddr 1 0 :=
  ⟨by decide +kernel, by decide +kernel, _, rfl, by decide +kernel, by decide +kernel, by decide +kernel⟩

/-- `IllFormedCommandLeavesFreeBytes`, second clause. -/
theorem witness_overlap :
    (ruleOf .pcopy).valid sOverlap.command = true ∧
    sOverlap.footprintMapped ((ruleOf .pcopy).jobOn sOverlap) = true ∧
    ((ruleOf .pcopy).jobOn sOverlap).writes 0x1003 = true ∧ ((ruleOf .pcopy).jobOn sOverlap).reads 0x1003 = true ∧
    ((ruleOf .pcopy).jobOn sOverlap).inPlaceExact = false := by decide +kernel

/-- `InPlacePcopyKeepsMemory`. -/
def sInPlace : State := { vPcopy with dst0 := ⟨0x1000, 4⟩ }.state

theorem witness_in_place :
    cleanRun .pcopy sInPlace = true ∧
    ∀ r < sInPlace.geo.h, sInPlace.srcAddr .src0 sInPlace.geo.h r 0 = sInPlace.dstAddr .dst0 r 0 := by decide +kernel

/-- A machine that differs from `vPcopy.state` in its destination bytes, its draws and its last read. -/
def sOther : State :=
  { vPcopy.state with mem := memoryOf [(0x1000, [1, 2, 3, 4]), (0x2000, [9, 9, 9, 9])], freeCount := 7, readData := 5 }

/-- `ResultDependsOnlyOnSource`. -/
theorem witness_same_source :
    cleanRun .pcopy vPcopy.state = true ∧ cleanRun .pcopy sOther = true ∧ vPcopy.state.command = sOther.command ∧
    vPcopy.state.plat.tables = sOther.plat.tables ∧
    (∀ q ∈ ((ruleOf .pcopy).jobOn vPcopy.state).srcs, ∀ a, q.covers a → vPcopy.state.byte a = sOther.byte a) ∧
    (∃ t, exec .pcopy vPcopy.state = .next t) ∧ (∃ t, exec .pcopy sOther = .next t) ∧
    vPcopy.state.byte 0x2000 ≠ sOther.byte 0x2000 := by
  refine ⟨by decide +kernel, by decide +kernel, rfl, rfl, ?_, ⟨_, rfl⟩, ⟨_, rfl⟩, by decide +kernel⟩
  rintro q hq a ⟨r, hr, i, hi, rfl⟩
  obtain rfl : q = srcPlane vPcopy.state.command vPcopy.state.command.geometry .src0 1 4 := List.mem_singleton.mp hq
  obtain rfl : r = 0 := Nat.lt_one_iff.mp hr
  have key : ∀ i < 4, vPcopy.state.byte
      ((srcPlane vPcopy.state.command vPcopy.state.command.geometry .src0 1 4).byteAddr 0 i) = sOther.byte
      ((srcPlane vPcopy.state.command vPcopy.state.command.geometry .src0 1 4).byteAddr 0 i) := by decide +kernel
  exact key i hi

/-- `RowAddresses`: a flip of a command with a source, and of one without. -/
theorem witness_rows :
    ({ w := 4, h := 2, flip := true : Geometry }).flip = true ∧
    (∃ p q, ((ruleOf .pcopy).job defaultTables vPcopy.regs ⟨4, 2, true⟩).srcs[0]? = some p ∧
      ((ruleOf .pcopy).job defaultTables vPcopy.regs ⟨4, 2, true⟩).dsts[0]? = some q ∧ 1 < p.rows) ∧
    ((ruleOf .pcopy).job defaultTables vPcopy.regs ⟨4, 2, true⟩).srcs ≠ [] ∧
    ((ruleOf .pset).job defaultTables vPcopy.regs ⟨4, 2, true⟩).srcs = [] ∧
    ∃ p, ((ruleOf .pset).job defaultTables vPcopy.regs ⟨4, 2, true⟩).dsts[0]? = some p ∧ 1 < p.rows :=
  ⟨rfl, ⟨_, _, rfl, rfl, by decide⟩, List.cons_ne_nil _ _, rfl, _, rfl, by decide⟩

/-- `AssemblerAcceptsWellFormedTerms`: two suffixes of code 0, of two kinds. -/
theorem witness_suffixes :
    [Suffix.rgb24 .rgb24, .order .argb].map Suffix.kind = Mnemonic.RGB24TORGB32.freeFields ∧
    ∀ x ∈ [Suffix.rgb24 .rgb24, .order .argb], x.code = 0 := by decide

/-- `FlippedRowsArePointerForm`: the first and the last row; and equal strides. -/
theorem witness_flipped :
    (vPmirror.state.geo.flip = true ∧ 0 < vPmirror.state.geo.h ∧ 1 < vPmirror.state.geo.h) ∧
    CmdRegs.reset.src0Stride2 = CmdRegs.reset.src0.stride := by decide +kernel

/-- `MirrorTwiceRestoresThePlane`: W2's two runs. -/
def sMirror : State := { vPcopy with cmd := 3 }.state

/-- The machine after the first run. -/
def tMirror : State := (sMirror.perform ((ruleOf .pmirror).jobOn sMirror) false).complete codeOk

/-- The second run's start. -/
def sMirrorBack : State :=
  { tMirror with inst := Vec.inst { vPcopy with cmd := 3, src0 := ⟨0x2000, 4⟩, dst0 := ⟨0x3000, 4⟩ } }

theorem witness_mirror_twice :
    cleanRun .pmirror sMirror = true ∧ exec .pmirror sMirror = .next tMirror ∧ sMirrorBack.mem = tMirror.mem ∧
    cleanRun .pmirror sMirrorBack = true ∧ (∃ t, exec .pmirror sMirrorBack = .next t) ∧
    sMirrorBack.command.width = sMirror.command.width ∧ sMirrorBack.command.height = sMirror.command.height ∧
    0 < sext32 sMirror.command.height ∧ sMirrorBack.command.src0 = sMirror.command.dst0 :=
  ⟨by decide +kernel, (exec_eq_runOperation _ _).trans (runOperation_mapped (by decide +kernel) (by decide +kernel)), rfl,
    by decide +kernel, ⟨_, rfl⟩, by decide +kernel, by decide +kernel, by decide +kernel, by decide +kernel⟩

/-- The address of an offset of the only window of `State.reset`. -/
def win (off : Nat) : Word := State.reset.windowBase 0 + BitVec.ofNat 32 off

/-- `RegisterReads`: every aligned offset of the window, the last one included. -/
theorem witness_register_reads :
    ((List.range 64).all fun n => State.reset.windowOf (win (4 * n)) == some 0 &&
      (win (4 * n) - State.reset.windowBase 0).toNat == 4 * n) = true ∧
    State.reset.instances[0]? = some CscInstance.reset := by decide +kernel

/-- `ConfigurationWrites`: each clause's offset (0x58 and 0xFC are the ends of its last range), on an instance with a
command in flight. -/
theorem witness_configuration :
    ([0x00, 0x0C, 0x10, 0x14, 0x18, 0x1C, 0x20, 0x24, 0x28, 0x2C, 0x30, 0x34, 0x38, 0x3C, 0x40, 0x44, 0x48, 0x4C, 0x50,
      0x54, 0x58, 0xFC].all fun off => vPcopy.state.windowOf (win off) == some 0 &&
        (win off - vPcopy.state.windowBase 0).toNat == off && off % 4 == 0 && off != 0x04 && off != 0x08) = true ∧
    vPcopy.state.instances[0]? = some vPcopy.inst := by decide +kernel

/-- R32: a write beside a running command leaves its latched copy. -/
theorem test_write_while_busy :
    (written vPcopy.state 0x50 0x77).inst = { vPcopy.inst with regs := { vPcopy.regs with dst2 := ⟨0x77, 0⟩ } } := by
  decide +kernel

/-- `CtrlWriteStartsOrIsIgnored`: idle, with a command in flight, and without START. -/
theorem witness_start :
    State.reset.windowOf (win 4) = some State.reset.current ∧
    (win 4 - State.reset.windowBase State.reset.current).toNat = 0x04 ∧
    vPcopy.state.windowOf (win 4) = some vPcopy.state.current ∧
    (win 4 - vPcopy.state.windowBase vPcopy.state.current).toNat = 0x04 ∧
    State.reset.instances[0]? = some CscInstance.reset ∧ vPcopy.state.instances[0]? = some vPcopy.inst ∧
    (3 : Word).getLsbD 0 = true ∧ (3 : Word).getLsbD 2 = false ∧ State.reset.inst.inFlight = none ∧
    (2 : Word).getLsbD 0 = false ∧ (2 : Word).getLsbD 2 = false ∧
    vPcopy.state.inst.inFlight.isSome = true := by decide +kernel

/-- `StatusAcknowledge`. -/
theorem witness_status :
    sFailed.windowOf (win 8) = some sFailed.current ∧ sFailed.instances[0]? = some sFailed.inst ∧
    (win 8 - sFailed.windowBase sFailed.current).toNat = 0x08 := by decide +kernel

/-- `SoftResetAborts`: idle, with an illegal command in flight, and running with a well-defined destination (the window's
clauses are those of `witness_start`). -/
theorem witness_soft_reset :
    (4 : Word).getLsbD 2 = true ∧ State.reset.inst.inFlight = none ∧
    (vIllegal.state.inst.inFlight = some ⟨vIllegal.regs, false⟩ ∧
      (jobOf vIllegal.state.plat.tables vIllegal.regs).isNone = true) ∧
    vPcopy.state.inst.inFlight = some ⟨vPcopy.regs, false⟩ ∧
    jobOf vPcopy.state.plat.tables vPcopy.regs = some ((ruleOf .pcopy).jobOn vPcopy.state) ∧
    (vPcopy.state.focus 0).unspecified ((ruleOf .pcopy).jobOn vPcopy.state) = false ∧
    vPcopy.state.mapped 0x2003 = true :=
  ⟨by decide, rfl, by decide +kernel, by decide +kernel, rfl, by decide +kernel, by decide +kernel⟩

/-- `WindowAccessRefused`: a byte, an unaligned word, and an aligned word. -/
theorem witness_window_access :
    State.reset.windowOf (win 0xFF) = some 0 ∧ AccessSize.byte ≠ .word ∧
    (win 2 - State.reset.windowBase 0).toNat % 4 ≠ 0 ∧ State.reset.windowOf (win 2) = some 0 ∧
    (win 0xFC - State.reset.windowBase 0).toNat % 4 = 0 := by decide +kernel

/-- `HostAccessWhileRunning`: a byte of SF, and the last byte of DF. -/
theorem witness_host_access :
    vPcopy.state.instances[0]? = some vPcopy.inst ∧ vPcopy.inst.inFlight = some ⟨vPcopy.regs, false⟩ ∧
    jobOf vPcopy.state.plat.tables vPcopy.regs = some ((ruleOf .pcopy).jobOn vPcopy.state) ∧
    vPcopy.state.mapped 0x1000 = true ∧ ((ruleOf .pcopy).jobOn vPcopy.state).reads 0x1000 = true ∧
    vPcopy.state.mapped 0x2003 = true ∧ ((ruleOf .pcopy).jobOn vPcopy.state).writes 0x2003 = true ∧
    vPcopy.state.footprintMapped ((ruleOf .pcopy).jobOn vPcopy.state) = true :=
  ⟨by decide +kernel, by decide +kernel, rfl, by decide +kernel, by decide +kernel, by decide +kernel,
    by decide +kernel, by decide +kernel⟩

/-- A second instance whose PCOPY reads what the first one writes. -/
def vReader : Vec := { vPcopy with src0 := ⟨0x2000, 4⟩, dst0 := ⟨0x3000, 4⟩ }

/-- Both commands in flight. -/
def sTwo : State := { vPcopy.state with after := [vReader.inst] }

/-- `ConcurrentCommandsLeaveFreeBytes`, `OtherInstancesKeepRegisters`. -/
theorem witness_concurrent :
    (ruleOf .pcopy).valid sTwo.command = true ∧ sTwo.footprintMapped ((ruleOf .pcopy).jobOn sTwo) = true ∧
    1 ≠ sTwo.current ∧ sTwo.instances[1]? = some vReader.inst ∧ vReader.inst.inFlight = some ⟨vReader.regs, false⟩ ∧
    (∃ k, jobOf sTwo.plat.tables vReader.regs = some k ∧ ((ruleOf .pcopy).jobOn sTwo).conflictsWith k = true ∧
      sTwo.footprintMapped k = true) ∧
    ∃ t, exec .pcopy sTwo = .next t :=
  ⟨by decide +kernel, by decide +kernel, by decide +kernel, rfl, rfl, ⟨_, rfl, by decide +kernel, by decide +kernel⟩,
    ⟨_, rfl⟩⟩

/-- `HostAccessesAreLittleEndian`: a store and a load that wrap around the address space; and beside a running command, a
store of bytes next to its SF and DF and a load of its SF. -/
theorem witness_host_memory :
    State.reset.plat.coherent = true ∧ State.reset.windowOf 0xFFFFFFFE = none ∧
    (∀ i < AccessSize.word.bytes, State.reset.mapped (0xFFFFFFFE + BitVec.ofNat 32 i) = true ∧
      State.reset.hiddenFromHost (0xFFFFFFFE + BitVec.ofNat 32 i) = false) ∧ State.reset.jobs.isEmpty = true ∧
    (∀ i < 4, 0xFFFFFFFE + BitVec.ofNat 32 i ≠ (2 : Word)) ∧ vPcopy.state.jobs.length = 1 ∧
    ([0x1004, 0x2004, 0x1FFC].all fun a => (List.range AccessSize.word.bytes).all fun i =>
      vPcopy.state.jobs.all fun j =>
        !j.reads (a + BitVec.ofNat 32 i) && !j.writes (a + BitVec.ofNat 32 i)) = true ∧
    (∀ i < AccessSize.word.bytes, (vPcopy.state.jobs.any fun j => j.writes (0x1000 + BitVec.ofNat 32 i)) = false) := by
  decide +kernel

/-- D-ME3: an ARGB pixel as a 32-bit load; and, R63, a 16-bit store, beside which the other bytes stay. -/
theorem test_host_little_endian :
    (match ({ State.reset with mem := memoryOf [(0x1000, [0x10, 0x20, 0x30, 0x40])] } : State).busRead 0x1000 .word with
      | .next t => t.readData == 0x40302010
      | _ => false) = true ∧
    (match ({ State.reset with mem := memoryOf [(0x1000, [1, 2, 3, 4])] } : State).busWrite 0x1001 .half 0xAABB with
      | .next t => t.mem == memoryOf [(0x1000, [1, 0xBB, 0xAA, 4])]
      | _ => false) = true := by decide +kernel

/-- A machine that is not coherent: a source byte hidden from the block, another byte hidden from both sides, PCOPY in
flight and a maintenance next. -/
def sStale : State :=
  { vPcopy.state with
    plat := { Platform.atReset with coherent := false }
    staleForBlock := [0x1000, 0x4000]
    staleForHost := [0x4000]
    agenda := [.cacheMaintenance] }

/-- `HiddenBytesAreFreeUntilMaintenance`: each clause. -/
theorem witness_hidden_bytes :
    sStale.plat.coherent = false ∧ sStale.mapped 0x1001 = true ∧
    (ruleOf .pcopy).valid sStale.command = true ∧ sStale.footprintMapped ((ruleOf .pcopy).jobOn sStale) = true ∧
    sStale.unspecified ((ruleOf .pcopy).jobOn sStale) = false ∧
    (sStale.mapped 0x4000 = true ∧ sStale.hiddenFromHost 0x4000 = true ∧ sStale.hiddenFromBlock 0x4000 = true) ∧
    sStale.agenda = .cacheMaintenance :: [] ∧
    (sStale.instances[0]? = some vPcopy.inst ∧ vPcopy.inst.inFlight = some ⟨vPcopy.regs, false⟩ ∧
      (jobOf sStale.plat.tables vPcopy.regs).any (fun j => j.reads 0x1000) = true ∧
      sStale.hiddenFromBlock 0x1000 = true) := by decide +kernel

/-- `HiddenBytesAreFreeUntilMaintenance`, last clause: no byte of the footprint was hidden. -/
theorem witness_nothing_hidden :
    ({ sStale with staleForBlock := [0x4000] } : State).jobs.all (fun j => !j.reads 0x4000 && !j.writes 0x4000) = true ∧
    ({ sStale with staleForBlock := [0x4000] } : State).plat.coherent = false := by decide +kernel

/-- R73: with COHERENT false a command hides what it writes from the host, and a maintenance shows it. -/
theorem test_maintenance :
    (match exec .pcopy sStale with
      | .next t => t.hiddenFromHost 0x2003 && !t.hiddenFromHost 0x2004 && !t.maintain.hiddenFromHost 0x2003
      | _ => false) = true := by decide +kernel

/-- `PowerOnResetValues`: nothing in flight; a byte outside the DF of a command in flight, and one not Mapped. -/
theorem witness_power_on :
    { sFailed with agenda := [.powerOnReset] }.agenda = .powerOnReset :: [] ∧
    (∀ x ∈ sFailed.instances, x.inFlight = none) ∧
    (vPcopy.state.jobs.length = 1 ∧ vPcopy.state.jobs.all (fun j => !j.writes 0x2004) = true) ∧
    (sUnmapped.jobs.length = 1 ∧ sUnmapped.jobs.all (fun j => j.writes 0x2004) = true ∧
      sUnmapped.mapped 0x2004 = false) := by decide +kernel

/-- `RunningCommandsFinish`: nothing in flight, and two commands in flight. -/
theorem witness_running :
    State.reset.agenda = [] ∧ State.reset.busyCount = 0 ∧ sTwo.agenda = [] ∧ sTwo.busyCount = 2 := by decide +kernel

/-- `InvariantKeptByEveryStep`: a machine with a command in flight, which a step completes. -/
theorem witness_invariant : vPcopy.state.Inv ∧ ∃ t, step vPcopy.state = .next t :=
  ⟨⟨by decide +kernel, by decide +kernel⟩, ⟨_, rfl⟩⟩

/-- `DefaultTableConsequences`: the luma values where its ranges meet. -/
theorem witness_luma_ranges :
    (16 : Byte).toNat ≤ 16 ∧ 16 < (17 : Byte).toNat ∧ (235 : Byte).toNat < 236 ∧ 236 ≤ (236 : Byte).toNat := by decide

end Sys2Proof.Tests
end

/-! Proofs for the family spec/10_state.md: the register window and the invariant of a step. -/

namespace Sys2Proof.Machine
open Sys2Proof.Config

/-! ## The register map (R21, R30) -/

/-- Offsets 0x58-0xFC are reserved (R30). -/
theorem regAt_of_le {off : Nat} (h : 0x58 ≤ off) : regAt off = .reserved := by
  unfold regAt
  split
  case h_22 => rfl
  all_goals omega

theorem regAt_ne_ctrl {off : Nat} (h : off ≠ 0x04) : regAt off ≠ .ctrl := by
  unfold regAt
  split
  case h_2 => exact absurd rfl h
  all_goals exact nofun

theorem regAt_ne_status {off : Nat} (h : off ≠ 0x08) : regAt off ≠ .status := by
  unfold regAt
  split
  case h_3 => exact absurd rfl h
  all_goals exact nofun

/-- CTRL reads IRQ_EN in bit 1 (R23). -/
theorem CscInstance.ctrlWord_eq (x : CscInstance) : x.ctrlWord = if x.irqEn then 2 else 0 := by
  unfold CscInstance.ctrlWord
  cases x.irqEn <;> rfl

/-- STATUS's three bits do not meet, so their union is their sum (R24). -/
theorem CscInstance.statusWord_eq (x : CscInstance) : x.statusWord =
    (if x.inFlight.isSome then 1 else 0) + (if x.done then 2 else 0) + (if x.err then 4 else 0) := by
  unfold CscInstance.statusWord CscInstance.busy
  cases x.inFlight.isSome <;> cases x.done <;> cases x.err <;> rfl

/-! ## Accesses to a register window (R31) -/

theorem windowAccessOk_iff (off : Nat) (size : AccessSize) :
    windowAccessOk off size = true ↔ size = .word ∧ off % 4 = 0 := by
  simp [windowAccessOk]

/-- An access that is not an aligned 32-bit one is refused (R31, I12). -/
theorem State.busAccess_refused {s : State} {a : Word} {k : Nat} {size : AccessSize} (hw : s.windowOf a = some k)
    (h : size ≠ .word ∨ (a - s.windowBase k).toNat % 4 ≠ 0) (v : Word) :
    s.busRead a size = .refused (.windowAccess a) ∧ s.busWrite a size v = .refused (.windowAccess a) := by
  have hno : ¬ windowAccessOk (a - s.windowBase k).toNat size = true := by
    rw [windowAccessOk_iff]
    tauto
  rw [State.busRead_window hw, State.busWrite_window hw, if_neg hno, if_neg hno]
  exact ⟨rfl, rfl⟩

theorem State.busRead_aligned {s : State} {a : Word} {k : Nat} (hw : s.windowOf a = some k)
    (h : (a - s.windowBase k).toNat % 4 = 0) :
    s.busRead a .word = .next (s.readWindow k (a - s.windowBase k).toNat) := by
  rw [State.busRead_window hw, if_pos ((windowAccessOk_iff _ _).mpr ⟨rfl, h⟩)]

theorem State.busWrite_aligned {s : State} {a : Word} {k : Nat} (hw : s.windowOf a = some k)
    (h : (a - s.windowBase k).toNat % 4 = 0) (v : Word) :
    s.busWrite a .word v = .next ((s.focus k).writeReg (regAt (a - s.windowBase k).toNat) v) := by
  rw [State.busWrite_window hw, if_pos ((windowAccessOk_iff _ _).mpr ⟨rfl, h⟩)]

theorem State.readWindow_of_getElem? {s : State} {k : Nat} {x : CscInstance} (h : s.instances[k]? = some x)
    (off : Nat) : s.readWindow k off = { s with readData := x.readReg s.plat (regAt off) } := by
  simp [State.readWindow, h]

/-- Bringing one of the instances to the front and replacing it changes nothing beside the instances. -/
theorem sameBesideInstances_focus (s : State) (k : Nat) (y : CscInstance) :
    SameBesideInstances s { s.focus k with inst := y } := s.focus_rest k

/-- An aligned 32-bit write whose effect on the window's registers is `y` puts `y` in their place and changes nothing
else. -/
theorem State.busWrite_replaces {s : State} {a v : Word} {k : Nat} {y : CscInstance} (hw : s.windowOf a = some k)
    (hal : (a - s.windowBase k).toNat % 4 = 0)
    (hy : (s.focus k).writeReg (regAt (a - s.windowBase k).toNat) v = { s.focus k with inst := y }) :
    ∃ t, s.busWrite a .word v = .next t ∧ SameBesideInstances s t ∧ t.instances = s.instances.set k y :=
  ⟨_, by rw [State.busWrite_aligned hw hal, hy], sameBesideInstances_focus s k y,
    State.instances_focus_set (State.windowOf_some hw).1 y⟩

/-- A write to any register but CTRL and STATUS changes the configuration registers alone (R32). -/
theorem State.writeReg_config {s : State} {n : RegName} (hc : n ≠ .ctrl) (hs : n ≠ .status) (v : Word) :
    s.writeReg n v = { s with inst := { s.inst with regs := s.inst.regs.writeReg n v } } := by
  rcases s.writeReg_cases n v with ⟨h, -⟩ | ⟨h, -⟩ | ⟨-, -, h⟩
  · exact absurd h hc
  · exact absurd h hs
  · exact h

/-! ## The instances a step leaves are legal (R24, R28, R270) -/

/-- `CscInstance.legal`, condition by condition. -/
theorem CscInstance.legal_iff (x : CscInstance) :
    x.legal = true ↔ (x.busy = true → x.done = false ∧ x.err = false) ∧ resultLegal x.result = true ∧
      fillLegal x.regs = true ∧ ∀ f, x.inFlight = some f → fillLegal f.regs = true := by
  unfold CscInstance.legal
  cases x.busy <;> cases x.done <;> cases x.err <;> cases x.inFlight <;> simp [and_assoc]

theorem CscInstance.reset_legal : CscInstance.reset.legal = true := by decide

/-- Completion ends BUSY, so DONE and ERR may stand (R272). -/
theorem CscInstance.complete_legal {x : CscInstance} {c : Word} (hc : resultLegal c = true) (h : x.legal = true) :
    (x.complete c).legal = true := by
  obtain ⟨-, -, hfill, -⟩ := x.legal_iff.mp h
  exact (CscInstance.legal_iff _).mpr ⟨nofun, hc, hfill, nofun⟩

/-- An accepted START clears DONE and ERR, and latches a FILL that is legal (R140). -/
theorem CscInstance.start_legal {x : CscInstance} (h : x.legal = true) : x.start.legal = true := by
  obtain ⟨-, hres, hfill, -⟩ := x.legal_iff.mp h
  refine (CscInstance.legal_iff _).mpr ⟨fun _ => ⟨rfl, rfl⟩, hres, hfill, ?_⟩
  rintro f ⟨⟩
  exact hfill

theorem CscInstance.acknowledge_legal {x : CscInstance} (v : Word) (h : x.legal = true) :
    (x.acknowledge v).legal = true := by
  obtain ⟨hbusy, hres, hfill, hlatch⟩ := x.legal_iff.mp h
  refine (CscInstance.legal_iff _).mpr ⟨fun hb => ?_, hres, hfill, hlatch⟩
  obtain ⟨hdone, herr⟩ := hbusy hb
  simp [hdone, herr]

/-- IRQ_EN is under no condition. -/
theorem CscInstance.irqEn_legal {x : CscInstance} (b : Bool) (h : x.legal = true) :
    CscInstance.legal { x with irqEn := b } = true := h

/-- A command marked by a hazard keeps its latched registers (R72, R75). -/
theorem CscInstance.marked_legal {x : CscInstance} {f : InFlight} (hf : x.inFlight = some f) (h : x.legal = true) :
    CscInstance.legal { x with inFlight := some { f with tainted := true } } = true := by
  obtain ⟨hbusy, hres, hfill, hlatch⟩ := x.legal_iff.mp h
  refine (CscInstance.legal_iff _).mpr ⟨fun _ => hbusy (by simp [CscInstance.busy, hf]), hres, hfill, ?_⟩
  rintro g ⟨⟩
  exact hlatch f hf

theorem CscInstance.taintedBy_legal (t : Tables) (j : Job) {x : CscInstance} (h : x.legal = true) :
    (x.taintedBy t j).legal = true := by
  unfold CscInstance.taintedBy
  split
  · next f k hf hk =>
    split
    · exact CscInstance.marked_legal hf h
    · exact h
  · exact h

theorem CscInstance.hitByAny_legal (t : Tables) (as : List Word) {x : CscInstance} (h : x.legal = true) :
    (x.hitByAny t as).legal = true := by
  unfold CscInstance.hitByAny
  split
  · next f j hf hj =>
    split
    · exact CscInstance.marked_legal hf h
    · exact h
  · exact h

/-- A write to FILL drops the reserved bits (R28). -/
@[simp] theorem extractLsb'_fillBits (v : Word) : (fillBits v).extractLsb' 24 8 = 0 := by
  have hmask : (0x00FFFFFF : Word).extractLsb' 24 8 = 0#8 := by decide
  rw [fillBits, BitVec.extractLsb'_and, hmask, BitVec.and_zero]
  rfl

@[simp] theorem CmdRegs.setPlane_fill (L : CmdRegs) (p : PlaneId) (d : PlaneRegs) :
    (L.setPlane p d).fill = L.fill := by
  cases p <;> rfl

theorem CmdRegs.writeReg_fillLegal {L : CmdRegs} (n : RegName) (v : Word) (h : fillLegal L = true) :
    fillLegal (L.writeReg n v) = true := by
  unfold fillLegal at *
  cases n with
  | fill => simp [CmdRegs.writeReg]
  | addr p => simpa [CmdRegs.writeReg] using h
  | stride p => simpa [CmdRegs.writeReg] using h
  | id | ctrl | status | result | cmd | width | height | src0Stride2 | reserved => exact h

theorem CscInstance.writeReg_legal {x : CscInstance} (n : RegName) (v : Word) (h : x.legal = true) :
    CscInstance.legal { x with regs := x.regs.writeReg n v } = true := by
  obtain ⟨hbusy, hres, hfill, hlatch⟩ := x.legal_iff.mp h
  exact (CscInstance.legal_iff _).mpr ⟨hbusy, hres, CmdRegs.writeReg_fillLegal n v hfill, hlatch⟩

/-! ## What every operation on the state keeps -/

/-- From `s` to `t` the invariant is kept, and the parameters and the number of instances are the same. -/
def KeepsInv (s t : State) : Prop := (s.Inv → t.Inv) ∧ t.plat = s.plat ∧ t.nInstances = s.nInstances

theorem KeepsInv.refl (s : State) : KeepsInv s s := ⟨id, rfl, rfl⟩

theorem KeepsInv.trans {s t u : State} (h₁ : KeepsInv s t) (h₂ : KeepsInv t u) : KeepsInv s u := by
  obtain ⟨hi₁, hp₁, hn₁⟩ := h₁
  obtain ⟨hi₂, hp₂, hn₂⟩ := h₂
  exact ⟨hi₂ ∘ hi₁, hp₂.trans hp₁, hn₂.trans hn₁⟩

/-- The invariant, with the current one of the instances set apart. -/
theorem State.inv_iff (s : State) : s.Inv ↔ s.mem.wf = true ∧ (∀ x ∈ s.before, x.legal = true) ∧
    s.inst.legal = true ∧ ∀ x ∈ s.after, x.legal = true := by
  simp only [State.Inv, State.instances, List.mem_append, List.mem_cons, or_imp, forall_and, forall_eq]

/-- A change that leaves the instances as they are, whichever of them is current, and memory. -/
theorem KeepsInv.of_same_instances {s t : State} (hi : t.instances = s.instances) (hm : t.mem = s.mem)
    (hp : t.plat = s.plat) : KeepsInv s t := by
  refine ⟨fun h => ?_, hp, ?_⟩
  · unfold State.Inv
    rwa [hi, hm]
  · rw [← State.instances_length, ← State.instances_length, hi]

/-- A change of the current registers alone. -/
theorem KeepsInv.of_inst {s : State} {y : CscInstance} (h : s.inst.legal = true → y.legal = true) :
    KeepsInv s { s with inst := y } := by
  refine ⟨fun hs => ?_, rfl, rfl⟩
  obtain ⟨hm, hb, hi, ha⟩ := s.inv_iff.mp hs
  exact (State.inv_iff _).mpr ⟨hm, hb, h hi, ha⟩

/-- A change of memory that does `f` to all the instances but the current one, which stays legal. -/
theorem KeepsInv.of_map {s t : State} {f : CscInstance → CscInstance} (hf : ∀ x, x.legal = true → (f x).legal = true)
    (hb : t.before = s.before.map f) (hi : s.inst.legal = true → t.inst.legal = true) (ha : t.after = s.after.map f)
    (hm : s.mem.wf = true → t.mem.wf = true) (hp : t.plat = s.plat) : KeepsInv s t := by
  have hmap {l : List CscInstance} (hl : ∀ x ∈ l, x.legal = true) : ∀ x ∈ l.map f, x.legal = true :=
    List.forall_mem_map.mpr fun x hx => hf x (hl x hx)
  refine ⟨fun hs => ?_, hp, by simp [State.nInstances, hb, ha]⟩
  obtain ⟨hmem, hbefore, hinst, hafter⟩ := s.inv_iff.mp hs
  exact t.inv_iff.mpr ⟨hm hmem, hb ▸ hmap hbefore, hi hinst, ha ▸ hmap hafter⟩

theorem State.focus_keepsInv (s : State) (k : Nat) : KeepsInv s (s.focus k) :=
  .of_same_instances (s.instances_focus k) (s.focus_mem k) (s.focus_plat k)

theorem State.complete_keepsInv (s : State) {c : Word} (hc : resultLegal c = true) : KeepsInv s (s.complete c) :=
  .of_inst (CscInstance.complete_legal hc)

theorem State.perform_keepsInv (s : State) (j : Job) (cut : Bool) : KeepsInv s (s.perform j cut) :=
  .of_map (fun _ => CscInstance.taintedBy_legal s.plat.tables j) rfl id rfl (State.perform_mem_wf j cut) rfl

theorem State.abort_keepsInv (s : State) : KeepsInv s s.abort := by
  rcases s.abort_cases with h | ⟨j, -, h⟩ <;> rw [h]
  · exact .refl s
  · exact s.perform_keepsInv j true

theorem State.softReset_keepsInv (s : State) : KeepsInv s s.softReset :=
  s.abort_keepsInv.trans (.of_inst fun _ => CscInstance.reset_legal)

theorem State.writeCtrl_keepsInv (s : State) (v : Word) : KeepsInv s (s.writeCtrl v) := by
  rcases s.writeCtrl_cases v with ⟨-, h⟩ | ⟨-, -, -, h⟩ | ⟨-, -, h⟩ <;> rw [h]
  · exact s.softReset_keepsInv
  · exact .of_inst fun hl => CscInstance.start_legal (CscInstance.irqEn_legal _ hl)
  · exact .of_inst (CscInstance.irqEn_legal _)

theorem State.writeReg_keepsInv (s : State) (n : RegName) (v : Word) : KeepsInv s (s.writeReg n v) := by
  rcases s.writeReg_cases n v with ⟨-, h⟩ | ⟨-, h⟩ | ⟨-, -, h⟩ <;> rw [h]
  · exact s.writeCtrl_keepsInv v
  · exact .of_inst (CscInstance.acknowledge_legal v)
  · exact .of_inst (CscInstance.writeReg_legal n v)

theorem State.hostStoreByte_keepsInv (s : State) (a : Word) (v : Byte) : KeepsInv s (s.hostStoreByte a v) :=
  .of_map (fun _ => CscInstance.hitByAny_legal s.plat.tables [a]) rfl (CscInstance.hitByAny_legal _ _) rfl
    (Memory.write_wf _ a.isLt) rfl

theorem State.hostStore_keepsInv (s : State) (a : Word) (size : AccessSize) (v : Word) :
    KeepsInv s (s.hostStore a size v) :=
  State.hostStore_induct s a size v (.refl s) (fun t b c h => h.trans (t.hostStoreByte_keepsInv b c))
    (fun _ _ h => h.trans (.of_same_instances rfl rfl rfl))

theorem State.maintain_keepsInv (s : State) : KeepsInv s s.maintain :=
  .of_map (fun _ => CscInstance.hitByAny_legal s.plat.tables s.staleForBlock) rfl (CscInstance.hitByAny_legal _ _) rfl
    State.maintain_mem_wf rfl

theorem State.powerOn_keepsInv (s : State) : KeepsInv s s.powerOn :=
  State.powerOn_induct s (.refl s) (fun t k h => h.trans (t.focus_keepsInv k))
    (fun t h => h.trans t.softReset_keepsInv)

/-! ## What every step keeps -/

section
variable {s t : State}

theorem State.busRead_keepsInv {a : Word} {size : AccessSize} (h : s.busRead a size = .next t) : KeepsInv s t := by
  obtain ⟨d, n, rfl⟩ := State.busRead_next h
  exact .of_same_instances rfl rfl rfl

theorem State.busWrite_keepsInv {a : Word} {size : AccessSize} {v : Word} (h : s.busWrite a size v = .next t) :
    KeepsInv s t := by
  rcases State.busWrite_next h with ⟨k, -, -, rfl⟩ | ⟨-, -, rfl⟩
  · exact (s.focus_keepsInv k).trans ((s.focus k).writeReg_keepsInv _ v)
  · exact s.hostStore_keepsInv a size v

theorem State.runCurrent_keepsInv (h : s.runCurrent = .next t) : KeepsInv s t := by
  rcases s.runCurrent_cases with ⟨c, hc, e⟩ | ⟨i, c, cut, -, hc, -, e⟩ <;> cases e.symm.trans h
  · exact s.complete_keepsInv hc
  · exact (s.perform_keepsInv _ cut).trans (State.complete_keepsInv _ hc)

theorem State.runAny_keepsInv (h : s.runAny = .next t) : KeepsInv s t := by
  rcases s.runAny_cases with ⟨-, e⟩ | ⟨k, -, -, e⟩ | ⟨-, -, e⟩ <;> rw [e] at h
  · exact State.runCurrent_keepsInv h
  · exact (s.focus_keepsInv k).trans (State.runCurrent_keepsInv h)
  · cases h
    exact .refl s

theorem State.runInstance_keepsInv {k : Nat} (h : s.runInstance k = .next t) : KeepsInv s t := by
  rcases s.runInstance_cases k with ⟨-, -, e⟩ | e <;> rw [e] at h
  · exact (s.focus_keepsInv k).trans (State.runCurrent_keepsInv h)
  · cases h
    exact .refl s

theorem State.pollOnce_keepsInv {a mask value : Word} (h : s.pollOnce a mask value = .next t) : KeepsInv s t := by
  obtain ⟨u, hread, rfl | hrun⟩ := State.pollOnce_next h
  · exact State.busRead_keepsInv hread
  · have hstand : KeepsInv u { u with agenda := .poll a mask value :: u.agenda } := .of_same_instances rfl rfl rfl
    exact (State.busRead_keepsInv hread).trans (hstand.trans (State.runAny_keepsInv hrun))

theorem State.handle_keepsInv {e : Event} (h : s.handle e = .next t) : KeepsInv s t := by
  cases e with
  | read a size => exact State.busRead_keepsInv h
  | write a size v => exact State.busWrite_keepsInv h
  | poll a mask value => exact State.pollOnce_keepsInv h
  | run k => exact State.runInstance_keepsInv h
  | cacheMaintenance => cases h; exact s.maintain_keepsInv
  | powerOnReset => cases h; exact s.powerOn_keepsInv

theorem step_keepsInv (h : step s = .next t) : KeepsInv s t := by
  cases ha : s.agenda with
  | nil => exact State.runAny_keepsInv (step_of_empty ha ▸ h)
  | cons e rest =>
    rw [step_of_entry ha] at h
    have htake : KeepsInv s { s with agenda := rest } := .of_same_instances rfl rfl rfl
    exact htake.trans (State.handle_keepsInv h)

end

/-! ## The obligations -/

/-- Settles O59: each operation a step is made of keeps the invariant, the parameters and the number of instances. -/
theorem invariantKeptByEveryStep : Obligations.InvariantKeptByEveryStep := by
  intro s t hs h
  obtain ⟨hinv, hplat, hn⟩ := step_keepsInv h
  exact ⟨hinv hs, hplat, hn⟩

/-- Settles O47: the read returns `readReg` of the register at the offset. -/
theorem registerReads : Obligations.RegisterReads := by
  intro s a k x hw hx hal
  refine ⟨_, by rw [State.busRead_aligned hw hal, State.readWindow_of_getElem? hx], ?_⟩
  generalize (a - s.windowBase k).toNat = off
  refine ⟨?_, ?ctrl, ?status, ?_, ?_, ?_, ?_, ?_, ?_, ?_, ?_, ?_, ?_, ?_, ?_, ?_, ?_, ?_, ?_, ?_, ?_, ?reserved⟩
  case ctrl => rintro rfl; exact x.ctrlWord_eq
  case status => rintro rfl; exact x.statusWord_eq
  case reserved =>
    rintro (rfl | h)
    · rfl
    · rw [regAt_of_le h]; rfl
  all_goals rintro rfl; rfl

/-- Settles O48: the write puts `writeReg` of the register at the offset into the live configuration registers. -/
theorem configurationWrites : Obligations.ConfigurationWrites := by
  intro s a v k x hw hx hal hctrl hstatus
  obtain ⟨t, ht, hsame, hinst⟩ := State.busWrite_replaces hw hal
    (State.writeReg_config (regAt_ne_ctrl hctrl) (regAt_ne_status hstatus) v)
  rw [(State.focus_of_getElem? hx).1] at hinst
  refine ⟨t, _, ht, hsame, hinst, ?_⟩
  generalize (a - s.windowBase k).toNat = off
  refine ⟨?_, ?_, ?_, ?_, ?_, ?_, ?_, ?_, ?_, ?_, ?_, ?_, ?_, ?_, ?_, ?_, ?_, ?readOnly⟩
  case readOnly =>
    rintro (rfl | rfl | rfl | h)
    case inr.inr.inr => rw [regAt_of_le h]; rfl
    all_goals rfl
  all_goals rintro rfl; rfl

/-- Settles O50: the write is `acknowledge` on the window's registers. -/
theorem statusAcknowledge : Obligations.StatusAcknowledge := by
  intro s a v k x hw hx hoff
  have hy : (s.focus k).writeReg (regAt (a - s.windowBase k).toNat) v =
      { s.focus k with inst := x.acknowledge v } := by
    rw [hoff, ← (State.focus_of_getElem? hx).1]
    rfl
  obtain ⟨t, ht, hsame, hinst⟩ := State.busWrite_replaces hw (by rw [hoff]) hy
  exact ⟨t, _, ht, hsame, hinst, rfl, rfl⟩

/-- Settles O52: `windowAccessOk` decides whether the access is carried out. -/
theorem windowAccessRefused : Obligations.WindowAccessRefused := fun _ _ v _ _ hw =>
  ⟨fun h => State.busAccess_refused hw h v,
    fun hal => ⟨⟨_, State.busRead_aligned hw hal⟩, _, State.busWrite_aligned hw hal v⟩⟩

end Sys2Proof.Machine

/-! Proofs for the family spec/20_memory.md: footprints byte by byte, what a command's result depends on, host accesses
to memory, and the hazards of a command in flight. -/

namespace Sys2Proof.Machine
open Sys2Proof.Config

/-! ## The row-level checks, byte by byte (R66, R68, R69) -/

/-- No byte is designated by two write positions: R68(a) fails. -/
def Job.WritesOnce (j : Job) : Prop :=
  ∀ (k : Nat) (p : Plane) (r b k' : Nat) (p' : Plane) (r' b' : Nat),
    j.dsts[k]? = some p → j.dsts[k']? = some p' → r < p.rows → b < p.bytes → r' < p'.rows → b' < p'.bytes →
    p.byteAddr r b = p'.byteAddr r' b' → (k, r, b) = (k', r', b')

/-- Two lists of runs meet exactly when some address is in a run of each. -/
theorem rangesMeet_iff_common (xs ys : List ByteRange) :
    rangesMeet xs ys = true ↔ ∃ a, (xs.any fun x => x.has a) = true ∧ (ys.any fun y => y.has a) = true := by
  simp only [rangesMeet_iff, ByteRange.overlaps_iff, List.any_eq_true]
  constructor
  · rintro ⟨x, hx, y, hy, a, hxa, hya⟩
    exact ⟨a, ⟨x, hx, hxa⟩, y, hy, hya⟩
  · rintro ⟨a, ⟨x, hx, hxa⟩, y, hy, hya⟩
    exact ⟨x, hx, y, hy, a, hxa, hya⟩

/-- DF is what the destination planes designate (R66). -/
theorem Job.writes_iff_covers (j : Job) (a : Word) : j.writes a = true ↔ ∃ d ∈ j.dsts, d.covers a := j.writes_iff a

/-- SF is what the source planes designate (R66). -/
theorem Job.reads_iff_covers (j : Job) (a : Word) : j.reads a = true ↔ ∃ q ∈ j.srcs, q.covers a := j.reads_iff a

/-- DF and SF meet exactly when some byte is in both: R68(b), byte by byte. -/
theorem Job.rangesMeet_df_sf (j : Job) :
    rangesMeet j.df j.sf = true ↔ ∃ a, j.writes a = true ∧ j.reads a = true := rangesMeet_iff_common _ _

/-- Two rows overlap exactly when a position of the one designates the byte of a position of the other. -/
theorem Plane.overlaps_rows {p p' : Plane} {r r' : Nat} :
    ByteRange.overlaps ⟨p.row r, p.bytes⟩ ⟨p'.row r', p'.bytes⟩ = true ↔
      ∃ b < p.bytes, ∃ b' < p'.bytes, p.byteAddr r b = p'.byteAddr r' b' := by
  simp only [ByteRange.overlaps_iff, ByteRange.has_iff, Plane.range_addr]
  constructor
  · rintro ⟨a, ⟨b, hb, rfl⟩, b', hb', e⟩
    exact ⟨b, hb, b', hb', e.symm⟩
  · rintro ⟨b, hb, b', hb', e⟩
    exact ⟨_, ⟨b, hb, rfl⟩, b', hb', e.symm⟩

/-- A row whose positions designate distinct bytes does not lap the address space. -/
theorem Job.WritesOnce.bytes_le {j : Job} (h : j.WritesOnce) {p : Plane} (hp : p ∈ j.dsts) {r : Nat} (hr : r < p.rows) :
    p.bytes ≤ 2 ^ 32 := by
  obtain ⟨k, hk⟩ := List.getElem?_of_mem hp
  by_contra hlong
  have hlap : p.byteAddr r 0 = p.byteAddr r (2 ^ 32) := rfl
  simpa using h k p r 0 k p r (2 ^ 32) hk hk hr (by omega) hr (by omega) hlap

/-- The check of DF's rows is the uniqueness of write positions. -/
theorem Job.noneTwice_df_iff (j : Job) : noneTwice j.df = true ↔ j.WritesOnce := by
  constructor
  · intro h k p r b k' p' r' b' hk hk' hr hb hr' hb' e
    obtain ⟨rfl, rfl, rfl⟩ := Job.position_unique h hk hk' hr hr' hb hb' e
    rfl
  · intro h
    have apart {k k' r r' : Nat} {p p' : Plane} (hk : j.dsts[k]? = some p) (hk' : j.dsts[k']? = some p')
        (hr : r < p.rows) (hr' : r' < p'.rows) (hne : (k, r) ≠ (k', r')) :
        ByteRange.overlaps ⟨p.row r, p.bytes⟩ ⟨p'.row r', p'.bytes⟩ = false := by
      rw [Bool.eq_false_iff, ne_eq, Plane.overlaps_rows]
      rintro ⟨b, hb, b', hb', e⟩
      cases h k p r b k' p' r' b' hk hk' hr hb hr' hb' e
      exact hne rfl
    rw [noneTwice_iff, Job.df, List.pairwise_flatMap]
    refine ⟨fun x hx => ?_, fun p hp => ?_, List.pairwise_iff_getElem.mpr fun k k' hk hk' hlt x hx y hy => ?_⟩
    · obtain ⟨p, hp, r, hr, rfl⟩ := Job.mem_df.mp hx
      exact h.bytes_le hp hr
    · obtain ⟨k, hk⟩ := List.getElem?_of_mem hp
      rw [Plane.ranges, List.pairwise_map]
      refine List.pairwise_lt_range.imp_of_mem fun hr hr' hlt => ?_
      exact apart hk hk (List.mem_range.mp hr) (List.mem_range.mp hr') (by simp [hlt.ne])
    · obtain ⟨r, hr, rfl⟩ := Plane.mem_ranges.mp hx
      obtain ⟨r', hr', rfl⟩ := Plane.mem_ranges.mp hy
      exact apart (List.getElem?_eq_getElem hk) (List.getElem?_eq_getElem hk') hr hr' (by simp [hlt.ne])

/-- R69's condition, row by row. -/
theorem Job.inPlaceExact_iff (j : Job) : j.inPlaceExact = true ↔
    j.inPlace = true ∧ ∃ q d, j.srcs = [q] ∧ j.dsts = [d] ∧ ∀ r < d.rows, q.row r = d.row r := by
  unfold Job.inPlaceExact
  rw [Bool.and_eq_true]
  refine and_congr_right fun _ => ?_
  split
  · next q d hs hd => simp [hs, hd]
  · next hno =>
    refine iff_of_false Bool.false_ne_true ?_
    rintro ⟨q, d, hs, hd, -⟩
    exact hno q d hs hd

/-- Settles O14: each of the two checks is its byte-by-byte condition. -/
theorem wellFormedInMemoryByteByByte : Obligations.WellFormedInMemoryByteByByte := by
  intro j
  rw [Job.memWellFormed, Bool.and_eq_true, Bool.or_eq_true, Bool.not_eq_true', Bool.eq_false_iff, ne_eq,
    j.noneTwice_df_iff, j.inPlaceExact_iff, j.rangesMeet_df_sf, or_comm]
  refine and_congr_right fun _ => or_congr_left ?_
  simp only [Job.writes_iff_covers, Job.reads_iff_covers]
  constructor
  · exact fun h d hd q hq a hda hqa => h ⟨a, ⟨d, hd, hda⟩, q, hq, hqa⟩
  · rintro h ⟨a, ⟨d, hd, hda⟩, q, hq, hqa⟩
    exact h d hd q hq a hda hqa

/-! ## What a command leaves outside and inside its destination -/

/-- A valid command with a Mapped footprint performs its job and completes with 0 (R153, R154). -/
theorem exec_of_mapped {i : Instr} {s : State} (hv : (ruleOf i).valid s.command = true)
    (hm : s.footprintMapped ((ruleOf i).jobOn s) = true) :
    exec i s = .next ((s.perform ((ruleOf i).jobOn s) false).complete codeOk) :=
  (exec_eq_runOperation i s).trans (runOperation_mapped hv hm)

/-- Settles O12: a failed check changes no byte, and a job, cut short or not, changes bytes of DF only. -/
theorem memoryOutsideDestinationKept : Obligations.MemoryOutsideDestinationKept := by
  intro i s t a h hout
  rw [exec_eq_runOperation] at h
  rw [outside_iff] at hout
  rcases runOperation_cases (ruleOf i) s with ⟨-, e⟩ | ⟨-, -, e⟩ | ⟨-, -, e⟩ <;> cases e.symm.trans h
  · rfl
  · exact State.byte_perform_outside hout
  · exact State.byte_perform_outside hout

/-- Settles O13: by the byte-by-byte reading of the check, such a command's destination is unspecified. -/
theorem illFormedCommandLeavesFreeBytes : Obligations.IllFormedCommandLeavesFreeBytes := by
  intro i s hv hm hbad
  have hill : ((ruleOf i).jobOn s).memWellFormed = false := by
    rw [Bool.eq_false_iff]
    intro hok
    obtain ⟨honce, happart⟩ := (wellFormedInMemoryByteByByte _).mp hok
    rcases hbad with ⟨k, p, r, b, k', p', r', b', hk, hk', hr, hb, hr', hb', hne, e⟩ |
      ⟨⟨d, hd, q, hq, a, hda, hqa⟩, hno⟩
    · exact hne (honce k p r b k' p' r' b' hk hk' hr hb hr' hb' e)
    · exact happart.elim (fun h => h d hd q hq a hda hqa) hno
  have hunspec : s.unspecified ((ruleOf i).jobOn s) = true := by simp [State.unspecified, hill]
  refine ⟨_, exec_of_mapped hv hm, rfl, fun d hd a ha => ?_, fun a ha => ?_⟩
  · exact State.byte_perform_unspecified hunspec (Plane.covers_writes hd ha)
  · exact State.byte_perform_outside ((outside_iff _ _).mp ha)

theorem State.srcAddr_eq_add (s : State) (p : PlaneId) (rows r b : Nat) :
    s.srcAddr p rows r b = s.srcAddr p rows r 0 + BitVec.ofNat 32 b := by
  simp [State.srcAddr]

theorem State.dstAddr_eq_add (s : State) (p : PlaneId) (r b : Nat) :
    s.dstAddr p r b = s.dstAddr p r 0 + BitVec.ofNat 32 b := by
  simp [State.dstAddr]

/-- Settles O15: every destination byte is given the byte at its own address. -/
theorem inPlacePcopyKeepsMemory : Obligations.InPlacePcopyKeepsMemory := by
  intro s hc hrows
  obtain ⟨t, ht, hdone, hin, hout⟩ := exec_of_cleanRun hc
  refine ⟨t, ht, hdone.1, fun a => ?_⟩
  cases hw : ((ruleOf .pcopy).jobOn s).writes a with
  | false => exact hout a hw
  | true =>
    obtain ⟨d, hd, r, hr, b, hb, rfl⟩ := (Job.writes_iff _ _).mp hw
    obtain rfl := List.mem_singleton.mp hd
    calc t.byte (s.dstAddr .dst0 r b)
      _ = s.sourceBytes ((ruleOf .pcopy).jobOn s) true 0 r b := hin 0 _ r b rfl hr hb
      _ = s.byte (s.srcAddr .src0 s.geo.h r b) :=
        State.sourceBytes_intact (p := srcPlane s.command s.geo .src0 s.geo.h s.geo.w) rfl
      _ = s.byte (s.dstAddr .dst0 r b) := by rw [State.srcAddr_eq_add, hrows r hr, ← State.dstAddr_eq_add]

/-! ## What a rule's values depend on (R70) -/

/-- Two assignments of source bytes agree on `rows` rows of `bytes` bytes of source plane `k`. -/
def SourceBytes.AgreeOn (src src' : SourceBytes) (k rows bytes : Nat) : Prop :=
  ∀ r < rows, ∀ b < bytes, src k r b = src' k r b

/-- Two assignments of source bytes agree on all of a list of source planes. -/
def SourceBytes.Agree (ps : List Plane) (src src' : SourceBytes) : Prop :=
  ∀ k p, ps[k]? = some p → SourceBytes.AgreeOn src src' k p.rows p.bytes

/-- The value of each destination byte is a function of the bytes inside the source planes. -/
def Job.ReadsSourcesOnly (j : Job) : Prop :=
  ∀ src src' : SourceBytes, SourceBytes.Agree j.srcs src src' →
    ∀ k p, j.dsts[k]? = some p → ∀ r < p.rows, ∀ b < p.bytes, j.value src k r b = j.value src' k r b

/-! ### Pixels and positions inside a source plane -/

theorem ChanOrder.offset_lt (o : ChanOrder) (c : Lane) : ChanOrder.offset o c < 4 := by
  cases o <;> cases c <;> decide

theorem Rgb24Layout.colorOffset_lt (l : Rgb24Layout) (c : Lane) : Rgb24Layout.colorOffset l c < 3 := by
  cases l <;> cases c <;> decide

theorem Yuv422Order.yoff_lt (o : Yuv422Order) {k : Nat} (hk : k < 2) : Yuv422Order.yoff o k < 4 := by
  cases o <;> simp only [Yuv422Order.yoff] <;> omega

theorem Yuv422Order.uoff_lt (o : Yuv422Order) : Yuv422Order.uoff o < 4 := by
  cases o <;> decide

theorem Yuv422Order.voff_lt (o : Yuv422Order) : Yuv422Order.voff o < 4 := by
  cases o <;> decide

/-- The two rows or columns averaged for chroma sample `j` are inside the plane (R193, R196, R251). -/
theorem pair_lt {n j : Nat} (h : j < cdiv2 n) : 2 * j < n ∧ pairRow n j < n := by
  unfold cdiv2 at h
  unfold pairRow
  omega

/-- The chroma sample shared by luma sample `j` is inside the plane (R151). -/
theorem half_lt_cdiv2 {n j : Nat} (h : j < n) : j / 2 < cdiv2 n := by
  unfold cdiv2
  omega

/-- A pixel is a function of its four bytes (R123). -/
theorem readPix32_congr (o : ChanOrder) {byte byte' : Nat → Byte} (h : ∀ j < 4, byte j = byte' j) :
    readPix32 o byte = readPix32 o byte' := by
  simp only [readPix32, h _ (ChanOrder.offset_lt o _)]

/-- A 24-bit pixel is a function of its three bytes (R128). -/
theorem readPix24_congr (l : Rgb24Layout) {byte byte' : Nat → Byte} (h : ∀ j < 3, byte j = byte' j) :
    readPix24 l byte = readPix24 l byte' := by
  simp only [readPix24, h _ (Rgb24Layout.colorOffset_lt l _)]

section
variable {src src' : SourceBytes}

/-- A pixel inside an RGB32 source plane (R123). -/
theorem srcPixel_congr {rows w : Nat} (h : SourceBytes.AgreeOn src src' 0 rows (4 * w)) (o : ChanOrder) {r x : Nat}
    (hr : r < rows) (hx : x < w) : srcPixel o src r x = srcPixel o src' r x :=
  readPix32_congr o fun j hj => h r hr (4 * x + j) (by omega)

/-- The average of two neighbouring rows (R193, R196). -/
theorem avg2_rows_congr {k rows bytes : Nat} (h : SourceBytes.AgreeOn src src' k rows bytes) {r b : Nat}
    (hr : r < cdiv2 rows) (hb : b < bytes) :
    avg2 (src k (2 * r) b) (src k (pairRow rows r) b) = avg2 (src' k (2 * r) b) (src' k (pairRow rows r) b) := by
  rw [h _ (pair_lt hr).1 b hb, h _ (pair_lt hr).2 b hb]

/-- The average of a 2x2 block (R251). -/
theorem chromaPixel_congr {pix pix' : Nat → Nat → Pixel} {w h : Nat} (e : ∀ r < h, ∀ x < w, pix r x = pix' r x)
    {j i : Nat} (hj : j < cdiv2 h) (hi : i < cdiv2 w) : chromaPixel pix w h j i = chromaPixel pix' w h j i := by
  obtain ⟨hr, hr'⟩ := pair_lt hj
  obtain ⟨hc, hc'⟩ := pair_lt hi
  simp only [chromaPixel, e _ hr _ hc, e _ hr _ hc', e _ hr' _ hc, e _ hr' _ hc']

end

/-! ### The rules -/

/-- A command that makes each destination byte from the pixel it belongs to, `n` bytes a pixel (R231-R234, R236). -/
theorem Job.ReadsSourcesOnly.of_pixels {j : Job} {L : CmdRegs} {g : Geometry} {n : Nat} (o : ChanOrder)
    (f : Pixel → Nat → Byte) (hs : j.srcs = [srcPlane L g .src0 g.h (4 * g.w)])
    (hd : j.dsts = [dstPlane L .dst0 g.h (n * g.w)])
    (hv : ∀ src r b, j.value src 0 r b = f (srcPixel o src r (b / n)) b) : j.ReadsSourcesOnly := by
  intro src src' h k p hk r hr b hb
  rw [hs] at h
  rw [hd] at hk
  match k, hk with
  | 0, rfl => rw [hv, hv, srcPixel_congr (h 0 _ rfl) o hr (Nat.div_lt_of_lt_mul hb)]

/-- A command that converts each pixel to RGB32 (R210). -/
theorem Job.ReadsSourcesOnly.of_rgb32_rows {j : Job} {L : CmdRegs} {g : Geometry} (o : ChanOrder)
    (color : SourceBytes → Nat → Nat → Pixel) (hd : j.dsts = [dstPlane L .dst0 g.h (4 * g.w)])
    (hv : ∀ src r b, j.value src 0 r b = rgb32RowByte o (color src r) b)
    (hc : ∀ src src', SourceBytes.Agree j.srcs src src' → ∀ r < g.h, ∀ x < g.w, color src r x = color src' r x) :
    j.ReadsSourcesOnly := by
  intro src src' h k p hk r hr b hb
  rw [hd] at hk
  match k, hk with
  | 0, rfl => rw [hv, hv, rgb32RowByte, rgb32RowByte, hc src src' h r hr (b / 4) (Nat.div_lt_of_lt_mul hb)]

/-- Every rule's values depend on the bytes of its source planes alone (R70). -/
theorem ruleOf_readsSourcesOnly (i : Instr) (t : Tables) (L : CmdRegs) (g : Geometry) :
    ((ruleOf i).job t L g).ReadsSourcesOnly := by
  have hpair {n x c : Nat} (hx : x < n) (hc : c < 2) : 2 * x + c < 2 * n := by omega
  have hquad {n x c : Nat} (hx : x < n) (hc : c < 4) : 4 * x + c < 4 * n := by omega
  have hmirror {n x : Nat} (hx : x < n) : n - 1 - x < n := by omega
  cases i with
  | pcopy | pcopy2 => exact fun _ _ h => fun | 0, _, rfl => fun r hr b hb => (h 0 _ rfl :) r hr b hb
  | pmirror =>
    exact fun _ _ h => fun | 0, _, rfl => fun r hr b hb => (h 0 _ rfl :) r hr (g.w - 1 - b) (hmirror hb)
  | pset => exact fun _ _ _ => fun | 0, _, rfl => fun _ _ _ _ => rfl
  | psplit2 =>
    exact fun _ _ h => fun
      | 0, _, rfl => fun r hr b hb => (h 0 _ rfl :) r hr (2 * b + 0) (hpair hb (by decide))
      | 1, _, rfl => fun r hr b hb => (h 0 _ rfl :) r hr (2 * b + 1) (hpair hb (by decide))
  | i420copy =>
    exact fun _ _ h => fun
      | 0, _, rfl => fun r hr b hb => (h 0 _ rfl :) r hr b hb
      | 1, _, rfl => fun r hr b hb => (h 1 _ rfl :) r hr b hb
      | 2, _, rfl => fun r hr b hb => (h 2 _ rfl :) r hr b hb
  | i420mirror =>
    exact fun _ _ h => fun
      | 0, _, rfl => fun r hr b hb => (h 0 _ rfl :) r hr (g.w - 1 - b) (hmirror hb)
      | 1, _, rfl => fun r hr b hb => (h 1 _ rfl :) r hr (g.cw - 1 - b) (hmirror hb)
      | 2, _, rfl => fun r hr b hb => (h 2 _ rfl :) r hr (g.cw - 1 - b) (hmirror hb)
  | i420rect => exact fun _ _ _ _ _ _ _ _ _ _ => rfl
  | i422toi420 =>
    exact fun _ _ h => fun
      | 0, _, rfl => fun r hr b hb => (h 0 _ rfl :) r hr b hb
      | 1, _, rfl => fun r hr b hb => avg2_rows_congr (h 1 _ rfl) hr hb
      | 2, _, rfl => fun r hr b hb => avg2_rows_congr (h 2 _ rfl) hr hb
  | nv420toi420 lay =>
    cases lay with
    | nv12 | m420 =>
      exact fun _ _ h => fun
        | 0, _, rfl => fun r hr b hb => (h 0 _ rfl :) r hr b hb
        | 1, _, rfl => fun r hr b hb => (h 1 _ rfl :) r hr (2 * b + 0) (hpair hb (by decide))
        | 2, _, rfl => fun r hr b hb => (h 1 _ rfl :) r hr (2 * b + 1) (hpair hb (by decide))
  | p422toi420 sord =>
    exact fun _ _ h => fun
      | 0, _, rfl => fun r hr b hb => (h 0 _ rfl :) r hr (4 * (b / 2) + _)
          (hquad (half_lt_cdiv2 hb) (Yuv422Order.yoff_lt sord (Nat.mod_lt b (by decide))))
      | 1, _, rfl => fun r hr b hb => avg2_rows_congr (h 0 _ rfl) hr (hquad hb (Yuv422Order.uoff_lt sord))
      | 2, _, rfl => fun r hr b hb => avg2_rows_congr (h 0 _ rfl) hr (hquad hb (Yuv422Order.voff_lt sord))
  | i420torgb32 dord =>
    refine .of_rgb32_rows (L := L) dord (fun src r x => yuv2rgb t (src 0 r x) (src 1 (r / 2) (x / 2))
      (src 2 (r / 2) (x / 2))) rfl (fun _ _ _ => rfl) fun _ _ h r hr x hx => ?_
    simp only [(h 0 _ rfl :) r hr x hx, (h 1 _ rfl :) _ (half_lt_cdiv2 hr) _ (half_lt_cdiv2 hx),
      (h 2 _ rfl :) _ (half_lt_cdiv2 hr) _ (half_lt_cdiv2 hx)]
  | i422torgb32 dord =>
    refine .of_rgb32_rows (L := L) dord (fun src r x => yuv2rgb t (src 0 r x) (src 1 r (x / 2)) (src 2 r (x / 2)))
      rfl (fun _ _ _ => rfl) fun _ _ h r hr x hx => ?_
    simp only [(h 0 _ rfl :) r hr x hx, (h 1 _ rfl :) r hr _ (half_lt_cdiv2 hx),
      (h 2 _ rfl :) r hr _ (half_lt_cdiv2 hx)]
  | i444torgb32 dord =>
    refine .of_rgb32_rows (L := L) dord (fun src r x => yuv2rgb t (src 0 r x) (src 1 r x) (src 2 r x))
      rfl (fun _ _ _ => rfl) fun _ _ h r hr x hx => ?_
    simp only [(h 0 _ rfl :) r hr x hx, (h 1 _ rfl :) r hr x hx, (h 2 _ rfl :) r hr x hx]
  | i400torgb32 dord =>
    refine .of_rgb32_rows (L := L) dord (fun src r x => yuv2rgb t (src 0 r x) 128 128)
      rfl (fun _ _ _ => rfl) fun _ _ h r hr x hx => ?_
    simp only [(h 0 _ rfl :) r hr x hx]
  | rgb32torgb565 sord => exact .of_pixels sord (fun p b => pixel16Byte (pack565 p) (b % 2)) rfl rfl fun _ _ _ => rfl
  | rgb32toargb1555 sord => exact .of_pixels sord (fun p b => pixel16Byte (pack1555 p) (b % 2)) rfl rfl fun _ _ _ => rfl
  | rgb32toargb4444 sord => exact .of_pixels sord (fun p b => pixel16Byte (pack4444 p) (b % 2)) rfl rfl fun _ _ _ => rfl
  | rgb32torgb24 sord dord => exact .of_pixels sord (fun p b => writePix24 dord p (b % 3)) rfl rfl fun _ _ _ => rfl
  | rgb32reorder sord dord => exact .of_pixels sord (fun p b => writePix32 dord p (b % 4)) rfl rfl fun _ _ _ => rfl
  | rgb24torgb32 sord dord =>
    refine .of_rgb32_rows (L := L) dord (fun src r x => readPix24 sord fun j => src 0 r (3 * x + j))
      rfl (fun _ _ _ => rfl) fun _ _ h r hr x hx => readPix24_congr sord fun j hj => ?_
    exact (h 0 _ rfl :) r hr (3 * x + j) (show 3 * x + j < 3 * g.w by omega)
  | rgb32toi400 sord =>
    exact fun _ _ h => fun
      | 0, _, rfl => fun r hr b hb => congrArg pixelY (srcPixel_congr (h 0 _ rfl) sord hr hb)
  | rgb32toi420 sord =>
    intro src src' h
    have hpix : ∀ r < g.h, ∀ x < g.w, srcPixel sord src r x = srcPixel sord src' r x :=
      fun r hr x hx => srcPixel_congr (h 0 _ rfl) sord hr hx
    exact fun
      | 0, _, rfl => fun r hr b hb => congrArg pixelY (hpix r hr b hb)
      | 1, _, rfl => fun r hr b hb =>
        congrArg (fun q : Pixel => rgb2u q.r q.g q.b) (chromaPixel_congr hpix hr hb)
      | 2, _, rfl => fun r hr b hb =>
        congrArg (fun q : Pixel => rgb2v q.r q.g q.b) (chromaPixel_congr hpix hr hb)

/-- Settles O16: both runs store the rule's values, which depend on the source bytes alone. -/
theorem resultDependsOnlyOnSource : Obligations.ResultDependsOnlyOnSource := by
  rintro i s₁ s₂ t₁ t₂ hc₁ hc₂ hcmd htab hsrc h₁ h₂ d hd _ ⟨r, hr, b, hb, rfl⟩
  have hjob : (ruleOf i).jobOn s₂ = (ruleOf i).jobOn s₁ := by rw [Operation.jobOn, Operation.jobOn, hcmd, htab]
  have hreads : ((ruleOf i).jobOn s₁).ReadsSourcesOnly := ruleOf_readsSourcesOnly i _ _ _
  obtain ⟨u₁, e₁, -, hin₁, -⟩ := exec_of_cleanRun hc₁
  obtain ⟨u₂, e₂, -, hin₂, -⟩ := exec_of_cleanRun hc₂
  cases e₁.symm.trans h₁
  cases e₂.symm.trans h₂
  rw [hjob] at hin₂
  obtain ⟨k, hk⟩ := List.getElem?_of_mem hd
  rw [hin₁ k d r b hk hr hb, hin₂ k d r b hk hr hb]
  refine hreads _ _ (fun m q hq r' hr' b' hb' => ?_) k d hk r hr b hb
  rw [State.sourceBytes_intact hq, State.sourceBytes_intact hq]
  exact hsrc q (List.mem_of_getElem? hq) _ ⟨r', hr', b', hb', rfl⟩

/-! ## Little-endian bytes (R63) -/

theorem ofBytes_lt (l : List Byte) : ofBytes l < 2 ^ (8 * l.length) := by
  induction l with
  | nil => exact Nat.one_pos
  | cons b l ih =>
    have hb := b.isLt
    rw [ofBytes, List.length_cons, Nat.mul_succ, Nat.pow_add]
    omega

/-- Byte `i` of a little-endian value is the `i`-th of its bytes. -/
theorem ofBytes_digit (l : List Byte) (i : Nat) (hi : i < l.length) :
    ofBytes l / 2 ^ (8 * i) % 2 ^ 8 = l[i].toNat := by
  induction l generalizing i with
  | nil => simp at hi
  | cons b l ih =>
    have hb := b.isLt
    cases i with
    | zero =>
      rw [ofBytes, Nat.mul_zero, Nat.pow_zero, Nat.div_one, List.getElem_cons_zero]
      omega
    | succ i =>
      have hshift : ofBytes (b :: l) / 2 ^ 8 = ofBytes l := by rw [ofBytes]; omega
      rw [Nat.mul_succ, Nat.add_comm, Nat.pow_add, ← Nat.div_div_eq_div_mul, hshift]
      exact ih i (Nat.lt_of_succ_lt_succ hi)

/-- At most four bytes fit a register value. -/
theorem toNat_ofNat_ofBytes {l : List Byte} (hl : l.length ≤ 4) :
    (BitVec.ofNat 32 (ofBytes l)).toNat = ofBytes l := by
  rw [BitVec.toNat_ofNat, Nat.mod_eq_of_lt]
  exact (ofBytes_lt l).trans_le (Nat.pow_le_pow_right (by decide) (by omega))

theorem extractLsb'_ofNat_ofBytes {l : List Byte} (hl : l.length ≤ 4) {i : Nat} (hi : i < l.length) :
    (BitVec.ofNat 32 (ofBytes l)).extractLsb' (8 * i) 8 = l[i] := by
  apply BitVec.eq_of_toNat_eq
  rw [BitVec.extractLsb'_toNat, toNat_ofNat_ofBytes hl, Nat.shiftRight_eq_div_pow, ofBytes_digit l i hi]

/-! ## Host accesses to memory (R60, R63, R64) -/

theorem AccessSize.bytes_le (size : AccessSize) : size.bytes ≤ 4 := by
  cases size <;> decide

@[simp] theorem accessAddrs_length (a : Word) (size : AccessSize) : (accessAddrs a size).length = size.bytes := by
  simp [accessAddrs]

theorem accessAddrs_all_iff {a : Word} {size : AccessSize} {ok : Word → Bool} :
    (accessAddrs a size).all ok = true ↔ ∀ i < size.bytes, ok (a + BitVec.ofNat 32 i) = true := by
  simp [accessAddrs]

@[simp] theorem accessAddrs_byte (a : Word) : accessAddrs a .byte = [a] := by
  simp [accessAddrs, AccessSize.bytes]

/-- The bytes of one access are at distinct addresses. -/
theorem access_offset_inj {a : Word} {size : AccessSize} {i k : Nat} (hi : i < size.bytes) (hk : k < size.bytes)
    (h : a + BitVec.ofNat 32 i = a + BitVec.ofNat 32 k) : i = k :=
  ByteRange.addr_inj (x := ⟨a, size.bytes⟩) (size.bytes_le.trans (by decide)) hi hk h

/-- A one-byte load of a Mapped byte returns what the host reads there. -/
theorem State.busRead_byte {s : State} {a : Word} (h : s.mapped a = true) :
    s.busRead a .byte =
      .next { s with readData := (s.hostReadByte a).zeroExtend 32, freeCount := s.freeCount + 1 } := by
  rw [State.busRead_memory (State.windowOf_of_mapped h) (by simp [h])]
  simp [ofBytes]

/-- A byte in the DF of a running command reads free (R72). -/
theorem State.hostReadByte_of_written {s : State} {j : Job} {a : Word} (hj : j ∈ s.jobs) (h : j.writes a = true) :
    s.hostReadByte a = freeByte s.freeCount a.toNat := by
  rw [State.hostReadByte, if_pos]
  exact Bool.or_eq_true_iff.mpr (.inl (List.any_eq_true.mpr ⟨j, hj, h⟩))

/-- A byte the block's store to which the host has not been shown reads free (R73). -/
theorem State.hostReadByte_of_hidden {s : State} {a : Word} (h : s.hiddenFromHost a = true) :
    s.hostReadByte a = freeByte s.freeCount a.toNat := by
  rw [State.hostReadByte, if_pos]
  exact Bool.or_eq_true_iff.mpr (.inr h)

/-- Any other byte reads as it stands in memory (R64). -/
theorem State.hostReadByte_of_visible {s : State} {a : Word} (hj : ∀ j ∈ s.jobs, j.writes a = false)
    (h : s.hiddenFromHost a = false) : s.hostReadByte a = s.byte a := by
  rw [State.hostReadByte, if_neg, State.byte]
  simpa [h] using hj

/-- A one-byte store to a Mapped byte. -/
theorem State.busWrite_byte {s : State} {a : Word} (h : s.mapped a = true) (v : Byte) :
    s.busWrite a .byte (v.zeroExtend 32) = .next { s.hostStoreByte a v with freeCount := s.freeCount + 1 } := by
  have hv : byteOf (v.zeroExtend 32) 0 = v := by
    simp [byteOf, ← BitVec.setWidth_eq_extractLsb']
  rw [State.busWrite_memory (State.windowOf_of_mapped h) (by simp [h])]
  simp [State.hostStore, AccessSize.bytes, hv]

/-- Each command in flight with a footprint is one of the machine's jobs. -/
theorem State.mem_jobs {s : State} {x : CscInstance} {j : Job} (hx : x ∈ s.instances)
    (hj : x.job? s.plat.tables = some j) : j ∈ s.jobs :=
  List.mem_filterMap.mpr ⟨x, hx, hj⟩

theorem CscInstance.job?_of_inFlight {x : CscInstance} {f : InFlight} (hf : x.inFlight = some f) (t : Tables) :
    x.job? t = jobOf t f.regs := by
  simp [CscInstance.job?, hf]

/-- A stored byte in no running command's footprint is the host's value and meets no command (R72). -/
theorem State.hostStoreByte_outside {s : State} {a : Word} {v : Byte}
    (h : ∀ j ∈ s.jobs, j.reads a = false ∧ j.writes a = false) :
    s.hostStoreByte a v = { s with mem := s.mem.write a.toNat v, staleForBlock := s.staleAfterHost a } := by
  have hmiss : ∀ x ∈ s.instances, x.hitBy s.plat.tables a = x := fun x hx =>
    CscInstance.hitByAny_of_outside fun j hj b hb => List.mem_singleton.mp hb ▸ h j (State.mem_jobs hx hj)
  have hvalue : s.hostStoredByte a v = v := by
    have hany : (s.jobs.any fun j => j.reads a || j.writes a) = false :=
      List.any_eq_false.mpr fun j hj => by simp [h j hj]
    simp [State.hostStoredByte, hany]
  simp only [State.instances, List.mem_append, List.mem_cons, or_imp, forall_and, forall_eq] at hmiss
  obtain ⟨hbefore, hinst, hafter⟩ := hmiss
  rw [State.hostStoreByte, hvalue, hinst, List.map_congr_left hbefore, List.map_congr_left hafter, List.map_id',
    List.map_id']

/-- The bytes of a host store, each with its address (R63). -/
def accessStores (a : Word) (size : AccessSize) (v : Word) : List (Word × Byte) :=
  (List.range size.bytes).map fun i => (a + BitVec.ofNat 32 i, byteOf v i)

/-- Stores of bytes outside every running command's footprint, one after the other. -/
theorem State.foldl_hostStoreByte_outside {s : State} {a v : Word} {is : List Nat}
    (h : ∀ i ∈ is, ∀ j ∈ s.jobs, j.reads (a + BitVec.ofNat 32 i) = false ∧ j.writes (a + BitVec.ofNat 32 i) = false) :
    ∃ l, is.foldl (fun t i => t.hostStoreByte (a + BitVec.ofNat 32 i) (byteOf v i)) s =
      { s with mem := s.mem.writeAll (is.map fun i => (a + BitVec.ofNat 32 i, byteOf v i)), staleForBlock := l } := by
  induction is generalizing s with
  | nil => exact ⟨s.staleForBlock, rfl⟩
  | cons i is ih =>
    rw [List.foldl_cons, State.hostStoreByte_outside (h i List.mem_cons_self)]
    exact ih fun k hk => h k (List.mem_cons_of_mem i hk)

/-- A host store outside every running command's footprint changes memory at its addresses, what is hidden from the
block, and the number of the next draw. -/
theorem State.hostStore_outside {s : State} {a : Word} {size : AccessSize} (v : Word)
    (h : ∀ i < size.bytes, ∀ j ∈ s.jobs, j.reads (a + BitVec.ofNat 32 i) = false ∧
      j.writes (a + BitVec.ofNat 32 i) = false) :
    ∃ l, s.hostStore a size v = { s with mem := s.mem.writeAll (accessStores a size v), staleForBlock := l,
                                         freeCount := s.freeCount + 1 } := by
  obtain ⟨l, hl⟩ := State.foldl_hostStoreByte_outside (v := v) fun i hi => h i (List.mem_range.mp hi)
  exact ⟨l, by simp only [State.hostStore, hl, accessStores]⟩

/-- The byte a host store puts at its `i`-th address (R63). -/
theorem Memory.read_accessStores_at (m : Memory) (a : Word) {size : AccessSize} (v : Word) {i : Nat}
    (hi : i < size.bytes) :
    (m.writeAll (accessStores a size v)).read (a + BitVec.ofNat 32 i).toNat = byteOf v i := by
  refine Memory.read_writeAll_value m (List.mem_map.mpr ⟨i, List.mem_range.mpr hi, rfl⟩) fun w hw hwa => ?_
  obtain ⟨k, hk, rfl⟩ := List.mem_map.mp hw
  rw [access_offset_inj (List.mem_range.mp hk) hi hwa]

/-- A host store changes no byte but those at its addresses. -/
theorem Memory.read_accessStores_outside (m : Memory) {a b : Word} {size : AccessSize} (v : Word)
    (h : ∀ i < size.bytes, a + BitVec.ofNat 32 i ≠ b) :
    (m.writeAll (accessStores a size v)).read b.toNat = m.read b.toNat := by
  refine Memory.read_writeAll_outside m fun w hw => ?_
  obtain ⟨i, hi, rfl⟩ := List.mem_map.mp hw
  exact h i (List.mem_range.mp hi)

/-- With COHERENT true the block reads memory at every Mapped address (R73). -/
theorem State.blockRead_of_coherent {s : State} {a : Word} {v : Byte} (hm : s.mapped a = true)
    (hc : s.plat.coherent = true) (hv : s.byte a = v) : s.blockRead a = v := by
  simpa [State.blockRead, State.hiddenFromBlock, hm, hc, State.byte] using hv

/-- The value of a four-byte load of an ARGB pixel (R63, R124). -/
theorem ofBytes_argb (p : Pixel) : ofBytes ((List.range 4).map (writePix32 .argb p)) =
    p.a.toNat * 2 ^ 24 + p.r.toNat * 2 ^ 16 + p.g.toNat * 2 ^ 8 + p.b.toNat := by
  have hmem : (List.range 4).map (writePix32 .argb p) = [p.b, p.g, p.r, p.a] := rfl
  rw [hmem]
  simp only [ofBytes]
  omega

/-- Settles O55: the store's bytes meet no command and are read back one by one; the load's are memory's. -/
theorem hostAccessesAreLittleEndian : Obligations.HostAccessesAreLittleEndian := by
  intro s a size hwin hmap
  have hall : (accessAddrs a size).all s.mapped = true := accessAddrs_all_iff.mpr hmap
  refine ⟨fun v hout => ?_, fun hvis => ?_⟩
  · obtain ⟨l, hstore⟩ := State.hostStore_outside v hout
    refine ⟨_, (State.busWrite_memory hwin hall v).trans (congrArg _ hstore), rfl, rfl, rfl, fun i hi => ?_,
      fun b hb => Memory.read_accessStores_outside s.mem v hb⟩
    have hbyte := Memory.read_accessStores_at s.mem a v hi
    refine ⟨hbyte, fun hc => State.blockRead_of_coherent ?mapped hc hbyte⟩
    case mapped => exact hmap i hi
  · have hread : ∀ b ∈ accessAddrs a size, s.hostReadByte b = s.byte b := by
      intro b hb
      obtain ⟨i, hi, rfl⟩ := List.mem_map.mp hb
      obtain ⟨hhid, hdf⟩ := hvis i (List.mem_range.mp hi)
      exact State.hostReadByte_of_visible hdf hhid
    have hlen : ((accessAddrs a size).map s.byte).length = size.bytes := by simp
    have hle := hlen.trans_le size.bytes_le
    refine ⟨_, _, (State.busRead_memory hwin hall).trans (by rw [List.map_congr_left hread]), ?_, fun i hi => ?_, ?_⟩
    · rw [toNat_ofNat_ofBytes hle, ← hlen]
      exact ofBytes_lt _
    · rw [extractLsb'_ofNat_ofBytes hle (hlen ▸ hi)]
      simp [accessAddrs]
    · rintro p rfl hp
      have hpix : (accessAddrs a .word).map s.byte = (List.range 4).map (writePix32 .argb p) := by
        rw [accessAddrs, List.map_map]
        exact List.map_congr_left fun i hi => hp i (List.mem_range.mp hi)
      rw [toNat_ofNat_ofBytes hle, hpix, ofBytes_argb]

/-! ## A command that a hazard has marked (R72, R75) -/

/-- A Mapped footprint stays Mapped while the parameters and the number of instances do (R6, R80). -/
theorem State.footprintMapped_congr {s t : State} {j : Job} (h : s.footprintMapped j = true) (hp : t.plat = s.plat)
    (hn : t.nInstances = s.nInstances) : t.footprintMapped j = true := by
  rwa [State.footprintMapped, State.mapped_congr hp hn]

/-- The command that runs completes at its own number among the instances. -/
theorem State.complete_focus_getElem? {s : State} {n : Nat} {x : CscInstance} {j : Job} {cut : Bool} {c : Word}
    (h : s.instances[n]? = some x) :
    (((s.focus n).perform j cut).complete c).instances[n]? = some (x.complete c) := by
  obtain ⟨hinst, hcur⟩ := State.focus_of_getElem? h
  have hn : (((s.focus n).perform j cut).complete c).current = n := by simpa [State.current] using hcur
  have := State.instances_current (((s.focus n).perform j cut).complete c)
  rwa [hn, State.complete_inst, State.perform_inst, hinst] at this

/-- A marked command with a Mapped footprint still completes with 0 when it runs, every byte of its DF free. -/
theorem State.runCurrent_marked {t : State} {n : Nat} {x : CscInstance} {f : InFlight} {j : Job}
    (hn : t.instances[n]? = some { x with inFlight := some { f with tainted := true } })
    (hj : jobOf t.plat.tables f.regs = some j) (hm : t.footprintMapped j = true) :
    ∃ u, (t.focus n).runCurrent = .next u ∧ u.instances[n]? = some (x.complete 0) ∧
      ∀ b, j.writes b = true → u.byte b = freeByte t.freeCount b.toNat := by
  obtain ⟨hinst, -⟩ := State.focus_of_getElem? hn
  have hfree : (t.focus n).freeCount = t.freeCount := by
    obtain ⟨-, -, -, -, -, -, h⟩ := t.focus_rest n
    exact h
  have hflight : (t.focus n).inst.inFlight = some { f with tainted := true } := by rw [hinst]
  have hunspec : (t.focus n).unspecified j = true := by simp [State.unspecified, State.tainted, hflight]
  refine ⟨((t.focus n).perform j false).complete codeOk, State.runCurrent_of_job hflight ?_ ?_,
    (State.complete_focus_getElem? hn :), fun b hb => ?_⟩
  · rwa [State.focus_plat]
  · exact State.footprintMapped_congr hm (t.focus_plat n) (t.nInstances_focus n)
  · rw [State.byte_complete, State.byte_perform_unspecified hunspec hb, hfree]

/-- A host store of a byte meets all the instances alike. -/
@[simp] theorem State.instances_hostStoreByte (s : State) (a : Word) (v : Byte) :
    (s.hostStoreByte a v).instances = s.instances.map (CscInstance.hitBy s.plat.tables a) := by
  simp [State.instances]

/-- Settles O53: the store marks the command, and a marked command's bytes end free. -/
theorem hostAccessWhileRunning : Obligations.HostAccessWhileRunning := by
  intro s n x f j a v hn hf hj ha
  refine ⟨fun hin hm => ?_, fun hw => ?_⟩
  · have hmark : (s.hostStoreByte a v).instances[n]? = some { x with inFlight := some { f with tainted := true } } := by
      rw [State.instances_hostStoreByte, List.getElem?_map, hn, Option.map_some, CscInstance.hitBy,
        CscInstance.hitByAny_of_mem hf hj List.mem_cons_self hin]
    obtain ⟨u, hrun, hdone, hfree⟩ := State.runCurrent_marked
      (t := { s.hostStoreByte a v with freeCount := s.freeCount + 1 }) hmark hj
      (State.footprintMapped_congr hm rfl (by simp [State.nInstances]))
    refine ⟨_, u, State.busWrite_byte ha v, hmark, ?_, hrun, hdone, hfree⟩
    have hbyte : (s.hostStoreByte a v).byte a = s.hostStoredByte a v := Memory.read_write_same _ _ _
    have hstored : s.hostStoredByte a v = v ∨ s.hostStoredByte a v = freeByte s.freeCount a.toNat := by
      unfold State.hostStoredByte
      split
      · exact .inr rfl
      · exact .inl rfl
    exact hbyte ▸ hstored
  · have hjobs : j ∈ s.jobs := State.mem_jobs (List.mem_of_getElem? hn) ((CscInstance.job?_of_inFlight hf _).trans hj)
    exact ⟨_, State.busRead_byte ha, by rw [State.hostReadByte_of_written hjobs hw]⟩

/-! ## Commands on two instances (R75) -/

/-- The instances beside the current one, by number. -/
theorem State.getElem?_instances_of_ne {s : State} {n : Nat} (h : n ≠ s.current) :
    s.instances[n]? = if n < s.current then s.before[n]? else s.after[n - s.current - 1]? := by
  unfold State.current at *
  unfold State.instances
  split
  · next hlt => exact List.getElem?_append_left hlt
  · next hge =>
    obtain ⟨m, rfl⟩ : ∃ m, n = s.before.length + (m + 1) := ⟨n - s.before.length - 1, by omega⟩
    rw [List.getElem?_append_right (by omega)]
    simp

/-- What completing a job does to the other instances. -/
theorem State.getElem?_instances_perform {s : State} {n : Nat} (h : n ≠ s.current) (j : Job) (cut : Bool) (c : Word) :
    ((s.perform j cut).complete c).instances[n]? = s.instances[n]?.map (CscInstance.taintedBy s.plat.tables j) := by
  have hcur : ((s.perform j cut).complete c).current = s.current := by simp [State.current]
  rw [State.getElem?_instances_of_ne h, State.getElem?_instances_of_ne (hcur ▸ h), hcur]
  split <;> exact List.getElem?_map

theorem CscInstance.taintedBy_of_conflict {x : CscInstance} {t : Tables} {f : InFlight} {j k : Job}
    (hf : x.inFlight = some f) (hk : jobOf t f.regs = some k) (h : j.conflictsWith k = true) :
    x.taintedBy t j = { x with inFlight := some { f with tainted := true } } := by
  simp [CscInstance.taintedBy, CscInstance.job?, hf, hk, h]

/-- A conflicting command in flight elsewhere is a conflict. -/
theorem State.conflict_of_getElem? {s : State} {n : Nat} {x : CscInstance} {j k : Job} (hne : n ≠ s.current)
    (hn : s.instances[n]? = some x) (hk : x.job? s.plat.tables = some k) (h : j.conflictsWith k = true) :
    s.conflict j = true := by
  have hx : x ∈ s.before ++ s.after := by
    rw [State.getElem?_instances_of_ne hne] at hn
    rw [List.mem_append]
    split at hn
    · exact .inl (List.mem_of_getElem? hn)
    · exact .inr (List.mem_of_getElem? hn)
  exact List.any_eq_true.mpr ⟨x, hx, by simp [hk, h]⟩

/-- Settles O54: the first command's destination is unspecified, and the other is marked. -/
theorem concurrentCommandsLeaveFreeBytes : Obligations.ConcurrentCommandsLeaveFreeBytes := by
  intro i s n x f k hv hm hne hn hf hk hconf
  have hunspec : s.unspecified ((ruleOf i).jobOn s) = true := by
    simp [State.unspecified, State.conflict_of_getElem? hne hn ((CscInstance.job?_of_inFlight hf _).trans hk) hconf]
  have hmark : ((s.perform ((ruleOf i).jobOn s) false).complete codeOk).instances[n]? =
      some { x with inFlight := some { f with tainted := true } } := by
    rw [State.getElem?_instances_perform hne, hn, Option.map_some, CscInstance.taintedBy_of_conflict hf hk hconf]
  refine ⟨_, exec_of_mapped hv hm, rfl, fun d hd a ha => ?_, hmark, fun hmk => ?_⟩
  · exact State.byte_perform_unspecified hunspec (Plane.covers_writes hd ha)
  · obtain ⟨u, hrun, hdone, hfree⟩ := State.runCurrent_marked hmark hk
      (State.footprintMapped_congr hmk rfl (by simp [State.nInstances]))
    exact ⟨u, hrun, hdone, fun d hd a ha => hfree a (Plane.covers_writes hd ha)⟩

/-! ## COHERENT false (R73, R304, I24) -/

/-- With COHERENT false a host store hides its byte from the block. -/
theorem State.staleAfterHost_contains {s : State} (hc : s.plat.coherent = false) (a b : Word) :
    (s.staleAfterHost a).contains b = (s.staleForBlock.contains b || b == a) := by
  unfold State.staleAfterHost
  simp only [hc, Bool.false_or]
  split
  · next hin =>
    by_cases e : b = a
    · rw [e, hin]; rfl
    · simp [e]
  · rw [List.contains_cons, Bool.or_comm]

/-- In a Mapped footprint, a source byte is M0's or, when hidden from the block, free (I24). -/
theorem State.sourceBytes_of_mapped {s : State} {j : Job} (hm : s.footprintMapped j = true) {k r b : Nat} {q : Plane}
    (hk : j.srcs[k]? = some q) (hr : r < q.rows) (hb : b < q.bytes) :
    s.sourceBytes j (s.sourceIntact j) k r b =
      if s.hiddenFromBlock (q.byteAddr r b) then freeByte s.freeCount (q.byteAddr r b).toNat
      else s.byte (q.byteAddr r b) := by
  have hrow : ⟨q.row r, q.bytes⟩ ∈ j.sf := Job.mem_sf.mpr ⟨q, List.mem_of_getElem? hk, r, hr, rfl⟩
  cases hi : s.sourceIntact j with
  | true =>
    have hvis := (allAddrs_iff _ _).mp hi _ hrow b hb
    rw [Plane.range_addr, Bool.and_eq_true, Bool.not_eq_true'] at hvis
    rw [State.sourceBytes_intact hk, hvis.2]
    rfl
  | false =>
    have hmap := (allAddrs_iff _ _).mp hm _ (List.mem_append_left _ hrow) b hb
    rw [Plane.range_addr] at hmap
    simp only [State.sourceBytes, hk, State.blockRead, hmap, State.byte]
    cases s.hiddenFromBlock (q.byteAddr r b) <;> rfl

/-- A job whose destination is specified and that is not cut short leaves the rule's values. -/
theorem State.byte_perform_specified {s : State} {j : Job} (h : s.unspecified j = false) {k r b : Nat} {p : Plane}
    (hk : j.dsts[k]? = some p) (hr : r < p.rows) (hb : b < p.bytes) :
    (s.perform j false).byte (p.byteAddr r b) = j.value (s.sourceBytes j (s.sourceIntact j)) k r b := by
  have honce : noneTwice j.df = true := by
    simp only [State.unspecified, Job.memWellFormed, Bool.or_eq_false_iff, Bool.not_eq_false', Bool.and_eq_true] at h
    obtain ⟨⟨⟨honce, -⟩, -⟩, -⟩ := h
    exact honce
  rw [State.byte_perform_at honce hk hr hb (by simp), State.finalByte, h]
  rfl

/-- Settles O56: the four clauses are those of a host store, a command, a host load and a maintenance. -/
theorem hiddenBytesAreFreeUntilMaintenance : Obligations.HiddenBytesAreFreeUntilMaintenance := by
  intro s hc
  refine ⟨fun a v ha => ?store, fun i hv hm => ?command, fun a ha hhid => ?load, fun rest hrest => ?maintenance⟩
  case store =>
    refine ⟨_, State.busWrite_byte ha v, fun b => ?_, fun b => rfl⟩
    simp only [State.hiddenFromBlock, State.hostStoreByte_plat, State.hostStoreByte_staleForBlock, hc,
      State.staleAfterHost_contains hc, Bool.not_false, Bool.true_and]
  case command =>
    refine ⟨_, exec_of_mapped hv hm, rfl, fun b => ⟨rfl, ?_⟩, fun hspec => ?_⟩
    · simp only [State.hiddenFromHost, State.complete_plat, State.perform_plat, State.complete_staleForHost,
        State.perform_staleForHost, hc, State.staleAfter_contains hc, State.effects_any, Bool.not_false, Bool.true_and]
    · exact ⟨_, fun k q r b hk hr hb => State.sourceBytes_of_mapped hm hk hr hb,
        fun k p r b hk hr hb => State.byte_perform_specified hspec hk hr hb⟩
  case load => exact ⟨_, State.busRead_byte ha, by rw [State.hostReadByte_of_hidden hhid]⟩
  case maintenance =>
    have hhid (a : Word) : s.hiddenFromBlock a = true ↔ a ∈ s.staleForBlock := by simp [State.hiddenFromBlock, hc]
    have hhid' (a : Word) : s.hiddenFromHost a = true ↔ a ∈ s.staleForHost := by simp [State.hiddenFromHost, hc]
    refine ⟨_, step_of_entry hrest, rfl, rfl, fun a => ⟨State.hiddenFromBlock_maintain _ a,
      State.hiddenFromHost_maintain _ a, ?_⟩, fun n x hn => ?_⟩
    · rw [State.byte_maintain]
      simp only [Bool.and_eq_true, hhid, hhid']
      rfl
    · refine ⟨x.hitByAny s.plat.tables s.staleForBlock, ?_, fun f j a hf hj ha hin => ?_, fun hout => ?_⟩
      · rw [State.instances_maintain, List.getElem?_map]
        exact congrArg _ hn
      · exact CscInstance.hitByAny_of_mem hf hj ((hhid a).mp ha) hin
      · refine CscInstance.hitByAny_of_outside fun j hj a ha => ?_
        obtain ⟨f, hf, hjob⟩ := Option.bind_eq_some_iff.mp hj
        exact hout f j a hf hjob ((hhid a).mpr ha)

end Sys2Proof.Machine

/-! The field codes, the decoder and the encoder (spec/30_encoding.md R90-R96). -/

namespace Sys2Proof

/-! ### Field codes (R91): the two directions agree, and a code fits the field that takes it -/

theorem ChanOrder.ofCode?_eq_some_iff {n : Nat} {o : ChanOrder} : ofCode? n = some o ↔ o.code = n := by
  constructor
  · fun_cases ofCode? n <;> rintro ⟨⟩ <;> rfl
  · rintro rfl; cases o <;> rfl

theorem Rgb24Layout.ofCode?_eq_some_iff {n : Nat} {l : Rgb24Layout} : ofCode? n = some l ↔ l.code = n := by
  constructor
  · fun_cases ofCode? n <;> rintro ⟨⟩ <;> rfl
  · rintro rfl; cases l <;> rfl

theorem Yuv422Order.ofCode?_eq_some_iff {n : Nat} {o : Yuv422Order} : ofCode? n = some o ↔ o.code = n := by
  constructor
  · fun_cases ofCode? n <;> rintro ⟨⟩ <;> rfl
  · rintro rfl; cases o <;> rfl

theorem BiplanarLayout.ofCode?_eq_some_iff {n : Nat} {l : BiplanarLayout} : ofCode? n = some l ↔ l.code = n := by
  constructor
  · fun_cases ofCode? n <;> rintro ⟨⟩ <;> rfl
  · rintro rfl; cases l <;> rfl

@[simp] theorem ChanOrder.ofCode?_code (o : ChanOrder) : ofCode? o.code = some o := ofCode?_eq_some_iff.mpr rfl

@[simp] theorem Rgb24Layout.ofCode?_code (l : Rgb24Layout) : ofCode? l.code = some l := ofCode?_eq_some_iff.mpr rfl

@[simp] theorem Yuv422Order.ofCode?_code (o : Yuv422Order) : ofCode? o.code = some o := ofCode?_eq_some_iff.mpr rfl

@[simp] theorem BiplanarLayout.ofCode?_code (l : BiplanarLayout) : ofCode? l.code = some l :=
  ofCode?_eq_some_iff.mpr rfl

@[simp] theorem ChanOrder.code_lt (o : ChanOrder) : o.code < 4 := by cases o <;> decide

@[simp] theorem Rgb24Layout.code_lt (l : Rgb24Layout) : l.code < 4 := by cases l <;> decide

@[simp] theorem Yuv422Order.code_lt (o : Yuv422Order) : o.code < 4 := by cases o <;> decide

@[simp] theorem BiplanarLayout.code_le (l : BiplanarLayout) : l.code ≤ 1 := by cases l <;> decide

/-! ### Words and fields (R90) -/

theorem CmdFields.toWord_ofWord (w : Word) : (ofWord w).toWord = w := by
  apply BitVec.eq_of_toNat_eq
  have := w.isLt
  simp only [ofWord, toWord, BitVec.toNat_ofNat]
  omega

theorem CmdFields.wellFormed_iff (f : CmdFields) :
    f.wellFormed = true ↔ f.op < 256 ∧ f.sord < 4 ∧ f.dord < 4 ∧ f.lay < 2 ∧ f.reserved = 0 := by
  simp [wellFormed, opFits, sordFits, dordFits, layFits, reservedZero, and_assoc]

theorem CmdFields.ofWord_toWord {f : CmdFields} (h : f.wellFormed = true) : ofWord f.toWord = f := by
  obtain ⟨hop, hsord, hdord, hlay, hreserved⟩ := f.wellFormed_iff.mp h
  cases f
  simp only [ofWord, toWord, BitVec.toNat_ofNat, mk.injEq] at *
  omega

/-! ### Fields and commands (R93, R94) -/

theorem Instr.fields_wellFormed (i : Instr) : i.fields.wellFormed = true := by
  rw [CmdFields.wellFormed_iff]
  cases i <;> simp [Instr.fields]

theorem whenZero_eq_some_iff {unused : List Nat} {o : Option Instr} {i : Instr} :
    whenZero unused o = some i ↔ (∀ n ∈ unused, n = 0) ∧ o = some i := by
  simp [whenZero]

theorem CmdFields.instr?_fields (i : Instr) : i.fields.instr? = some i := by
  cases i <;> simp [Instr.fields, instr?, whenZero_eq_some_iff]

/-- The opcodes split into those with no free field, with one and with two. -/
theorem CmdFields.fields_of_instr? {f : CmdFields} {i : Instr} (hr : f.reserved = 0) (h : f.instr? = some i) :
    i.fields = f := by
  obtain ⟨op, sord, dord, lay, reserved⟩ := f
  cases hr
  simp only [instr?] at h
  split at h
  case h_24 => cases h
  all_goals
    obtain ⟨hzero, hi⟩ := whenZero_eq_some_iff.mp h
    simp only [List.forall_mem_cons, List.not_mem_nil, false_imp_iff, implies_true, and_true] at hzero
  case h_1 | h_2 | h_3 | h_4 | h_5 | h_6 | h_7 | h_8 | h_9 =>
    obtain ⟨rfl, rfl, rfl⟩ := hzero
    cases hi
    rfl
  case h_19 | h_20 | h_21 =>
    subst hzero
    split at hi
    · next hs hd =>
      simp only [ChanOrder.ofCode?_eq_some_iff, Rgb24Layout.ofCode?_eq_some_iff] at hs hd
      subst hs hd
      cases hi
      rfl
    · cases hi
  all_goals
    obtain ⟨rfl, rfl⟩ := hzero
    obtain ⟨o, ho, rfl⟩ := Option.map_eq_some_iff.mp hi
    simp only [ChanOrder.ofCode?_eq_some_iff, Yuv422Order.ofCode?_eq_some_iff, BiplanarLayout.ofCode?_eq_some_iff] at ho
    subst ho
    rfl

theorem encode_of_decode {w : Word} {i : Instr} (h : decode w = some i) : encode i = w := by
  unfold decode at h
  split at h
  · next hr => rw [encode, CmdFields.fields_of_instr? hr h, CmdFields.toWord_ofWord]
  · cases h

theorem decode_encode (i : Instr) : decode (encode i) = some i := by
  obtain ⟨-, -, -, -, hr⟩ := i.fields.wellFormed_iff.mp i.fields_wellFormed
  rw [decode, encode, CmdFields.ofWord_toWord i.fields_wellFormed, if_pos hr, CmdFields.instr?_fields]

/-- Settles O2: each direction is a round trip through the fields of the word. -/
theorem decodeEncodeInverse : Obligations.DecodeEncodeInverse := by
  intro w i
  refine ⟨encode_of_decode, ?_⟩
  rintro rfl
  exact decode_encode i

/-! ### The opcode map (R93, R95) -/

/-- The per-command laws of `EncodeMatchesRow`, together. -/
theorem encode_matches_row : ∀ i : Instr, Laws.EncodeMatchesRow.Statement i
  | .pcopy => Laws.EncodeMatchesRow.pcopy
  | .pcopy2 => Laws.EncodeMatchesRow.pcopy2
  | .pmirror => Laws.EncodeMatchesRow.pmirror
  | .pset => Laws.EncodeMatchesRow.pset
  | .psplit2 => Laws.EncodeMatchesRow.psplit2
  | .i420copy => Laws.EncodeMatchesRow.i420copy
  | .i420mirror => Laws.EncodeMatchesRow.i420mirror
  | .i420rect => Laws.EncodeMatchesRow.i420rect
  | .i422toi420 => Laws.EncodeMatchesRow.i422toi420
  | .nv420toi420 l => Laws.EncodeMatchesRow.nv420toi420 l
  | .p422toi420 s => Laws.EncodeMatchesRow.p422toi420 s
  | .i420torgb32 d => Laws.EncodeMatchesRow.i420torgb32 d
  | .i422torgb32 d => Laws.EncodeMatchesRow.i422torgb32 d
  | .i444torgb32 d => Laws.EncodeMatchesRow.i444torgb32 d
  | .i400torgb32 d => Laws.EncodeMatchesRow.i400torgb32 d
  | .rgb32torgb565 s => Laws.EncodeMatchesRow.rgb32torgb565 s
  | .rgb32toargb1555 s => Laws.EncodeMatchesRow.rgb32toargb1555 s
  | .rgb32toargb4444 s => Laws.EncodeMatchesRow.rgb32toargb4444 s
  | .rgb32torgb24 s d => Laws.EncodeMatchesRow.rgb32torgb24 s d
  | .rgb24torgb32 s d => Laws.EncodeMatchesRow.rgb24torgb32 s d
  | .rgb32reorder s d => Laws.EncodeMatchesRow.rgb32reorder s d
  | .rgb32toi400 s => Laws.EncodeMatchesRow.rgb32toi400 s
  | .rgb32toi420 s => Laws.EncodeMatchesRow.rgb32toi420 s

/-- The word of a row with the free ones among bits 12:8 (SORD, DORD, LAY) set as `k` has them. -/
def OpcodeRow.wordWith (row : OpcodeRow) (k : BitVec 5) : Word :=
  row.bits ||| (k.setWidth 32 <<< 8 &&& ~~~row.mask)

/-- No row leaves a bit outside 12:8 free. -/
theorem OpcodeRow.mask_outside_fields :
    ∀ row ∈ opcodeMap, ∀ j < 32, j < 8 ∨ 13 ≤ j → row.mask.getLsbD j = true := by decide

theorem OpcodeRow.wordWith_of_matches {row : OpcodeRow} {w : Word} (hrow : row ∈ opcodeMap)
    (h : row.matches w = true) : row.wordWith (w.extractLsb' 8 5) = w := by
  have hbits : w &&& row.mask = row.bits := eq_of_beq h
  rw [wordWith, ← hbits]
  ext j hj
  by_cases hfree : j < 8 ∨ 13 ≤ j
  · have hmask : row.mask[j] = true := mask_outside_fields row hrow j hj hfree
    simp [hmask]
  · have hsub : j - 8 < 5 ∧ 8 + (j - 8) = j ∧ ¬ j < 8 := by omega
    cases hmask : row.mask[j] <;> simp [hmask, hsub, BitVec.getLsbD_eq_getElem hj]

/-- R93, R94: whatever the free bits, a row's word is legal; 32 settings for each of the 23 rows. -/
theorem OpcodeRow.decode_wordWith_isSome :
    ∀ row ∈ opcodeMap, ∀ k, (decode (row.wordWith k)).isSome = true := by
  decide

theorem OpcodeRow.decode_isSome_of_matches {row : OpcodeRow} {w : Word} (hrow : row ∈ opcodeMap)
    (h : row.matches w = true) : (decode w).isSome = true :=
  wordWith_of_matches hrow h ▸ decode_wordWith_isSome row hrow _

/-- Settles O3: a decoded word is its command's, which matches one row, and a word that matches a row decodes. -/
theorem everyWordIsOneRowOrIllegal : Obligations.EveryWordIsOneRowOrIllegal := by
  intro w
  cases hd : decode w with
  | some i =>
    obtain ⟨row, hfilter, hmn⟩ := List.map_eq_singleton_iff.mp (encode_matches_row i)
    rw [encode_of_decode hd] at hfilter
    have hrow (r : OpcodeRow) : r ∈ opcodeMap ∧ r.matches w = true ↔ r = row := by
      rw [← List.mem_singleton (b := row), ← hfilter, List.mem_filter]
    obtain ⟨hmem, hmatch⟩ := (hrow row).mpr rfl
    exact .inl ⟨i, row, rfl, hmem, hmatch, hmn, fun r hr hm => (hrow r).mp ⟨hr, hm⟩⟩
  | none =>
    refine .inr ⟨rfl, fun row hrow => Bool.eq_false_iff.mpr fun hm => ?_⟩
    simpa [hd] using OpcodeRow.decode_isSome_of_matches hrow hm

/-! ### The assembler (R98, R100) -/

theorem Suffix.kind_eq_order_iff {x : Suffix} : x.kind = .order ↔ ∃ o, x = .order o := by cases x <;> simp [kind]

theorem Suffix.kind_eq_rgb24_iff {x : Suffix} : x.kind = .rgb24 ↔ ∃ l, x = .rgb24 l := by cases x <;> simp [kind]

theorem Suffix.kind_eq_yuv422_iff {x : Suffix} : x.kind = .yuv422 ↔ ∃ o, x = .yuv422 o := by cases x <;> simp [kind]

theorem Suffix.kind_eq_biplanar_iff {x : Suffix} : x.kind = .biplanar ↔ ∃ l, x = .biplanar l := by
  cases x <;> simp [kind]

/-- By the mnemonic: no free field, two, or one. -/
theorem assembleFull_isSome_iff (m : Mnemonic) (l : List Suffix) :
    (assembleFull m l).isSome = true ↔ l.map Suffix.kind = m.freeFields := by
  constructor
  · fun_cases assembleFull m l <;> intro h
    case case24 => cases h
    all_goals rfl
  · intro h
    cases m <;> simp only [Mnemonic.freeFields, List.map_eq_nil_iff, List.map_eq_cons_iff, Suffix.kind_eq_order_iff,
      Suffix.kind_eq_rgb24_iff, Suffix.kind_eq_yuv422_iff, Suffix.kind_eq_biplanar_iff] at h
    case PCOPY | PCOPY2 | PMIRROR | PSET | PSPLIT2 | I420COPY | I420MIRROR | I420RECT | I422TOI420 => rw [h]; rfl
    case RGB32TORGB24 | RGB24TORGB32 | RGB32REORDER =>
      obtain ⟨_, _, rfl, ⟨_, rfl⟩, _, _, rfl, ⟨_, rfl⟩, rfl⟩ := h
      rfl
    all_goals
      obtain ⟨_, _, rfl, ⟨_, rfl⟩, rfl⟩ := h
      rfl

theorem AsmCommand.wellFormed_iff (c : AsmCommand) :
    c.wellFormed = true ↔ c.suffixes = [] ∨ c.suffixes.map Suffix.kind = c.mnemonic.freeFields := by
  obtain ⟨m, l⟩ := c
  have hzip : l.map Suffix.kind = m.freeFields ↔
      l.length = m.freeFields.length ∧ ∀ {k k'}, (k, k') ∈ (l.map Suffix.kind).zip m.freeFields → k = k' := by
    rw [← List.forall₂_eq_eq_eq, List.forall₂_iff_zip, List.length_map]
  rw [hzip]
  cases l <;> simp [wellFormed, suffixCountOk, suffixKindsOk]

theorem Mnemonic.map_kind_defaultSuffixes (m : Mnemonic) : m.defaultSuffixes.map Suffix.kind = m.freeFields := by
  cases m <;> rfl

theorem Mnemonic.defaultSuffixes_eq {m : Mnemonic} {l : List Suffix} (hk : l.map Suffix.kind = m.freeFields)
    (h0 : ∀ x ∈ l, x.code = 0) : m.defaultSuffixes = l := by
  rw [defaultSuffixes, ← hk, List.map_map]
  refine (List.map_congr_left fun x hx => ?_).trans (List.map_id l)
  cases x with
  | order o => cases ChanOrder.ofCode?_eq_some_iff.mpr (h0 _ hx); rfl
  | rgb24 l => cases Rgb24Layout.ofCode?_eq_some_iff.mpr (h0 _ hx); rfl
  | yuv422 o => cases Yuv422Order.ofCode?_eq_some_iff.mpr (h0 _ hx); rfl
  | biplanar l => cases BiplanarLayout.ofCode?_eq_some_iff.mpr (h0 _ hx); rfl

theorem AsmCommand.assemble_nil (m : Mnemonic) : assemble ⟨m, []⟩ = assembleFull m m.defaultSuffixes := rfl

theorem AsmCommand.assemble_of_map_kind {m : Mnemonic} {l : List Suffix} (h : l.map Suffix.kind = m.freeFields) :
    assemble ⟨m, l⟩ = assembleFull m l := by
  cases l with
  | nil => rw [assemble_nil, Mnemonic.defaultSuffixes, ← h, List.map_nil, List.map_nil]
  | cons x l => rfl

theorem AsmCommand.assemble_isSome_iff (c : AsmCommand) :
    c.assemble.isSome = true ↔ c.suffixes = [] ∨ c.suffixes.map Suffix.kind = c.mnemonic.freeFields := by
  obtain ⟨m, l⟩ := c
  cases l with
  | nil => simp [assemble_nil, assembleFull_isSome_iff, Mnemonic.map_kind_defaultSuffixes]
  | cons x l => simp [assemble, assembleFull_isSome_iff]

/-- R98: SORD, DORD and LAY are 0 in the word of a term without suffixes. -/
theorem AsmCommand.assemble_nil_word (m : Mnemonic) :
    ∃ i, assemble ⟨m, []⟩ = some i ∧ (encode i).extractLsb' 8 24 = 0 := by
  cases m <;> exact ⟨_, rfl, rfl⟩

/-- Settles O5: both sides of the first clause say that the suffixes are omitted or of the kinds of the free fields. -/
theorem assemblerAcceptsWellFormedTerms : Obligations.AssemblerAcceptsWellFormedTerms := by
  refine ⟨fun c => Bool.eq_iff_iff.mpr (c.assemble_isSome_iff.trans c.wellFormed_iff.symm), fun m l hk h0 => ?_,
    AsmCommand.assemble_nil_word⟩
  rw [AsmCommand.assemble_nil, AsmCommand.assemble_of_map_kind hk, Mnemonic.defaultSuffixes_eq hk h0]

/-- Settles O1: the decoder evaluates each of the words. -/
theorem opcodeWordsDecode : Obligations.OpcodeWordsDecode := by
  unfold Obligations.OpcodeWordsDecode
  decide

/-- Settles O4: the assembler and the encoder evaluate each of the 26 expansions. -/
theorem pseudoCommandWords : Obligations.PseudoCommandWords := by
  unfold Obligations.PseudoCommandWords
  decide

end Sys2Proof

/-! Proofs for the family spec/40_colormath.md: the inverse and the forward transform, the averages, the packed fields and
the pixel layouts. -/

namespace Sys2Proof.Machine
open Sys2Proof.Config

/-! ## The arithmetic primitives as integers (R9, R111) -/

theorem toNat_u8 {v : Int} (h₀ : 0 ≤ v) (h₁ : v ≤ 255) : ((u8 v).toNat : Int) = v := by
  rw [u8, BitVec.toNat_ofInt]
  omega

theorem toNat_sat8 (v : Int) : ((sat8 v).toNat : Int) = max 0 (min 255 v) := by
  rw [sat8, toNat_u8 (by omega) (by omega)]
  omega

theorem sat8_of_nonpos {v : Int} (h : v ≤ 0) : sat8 v = 0 := by
  rw [sat8, max_eq_left h]
  rfl

theorem sat8_of_le {v : Int} (h : 255 ≤ v) : sat8 v = 255 := by
  rw [sat8, min_eq_left (h.trans (le_max_right 0 v))]
  rfl

theorem asr_six (v : Int) : asr v 6 = v / 64 := rfl

theorem asr_eight (v : Int) : asr v 8 = v / 256 := rfl

theorem satAdd16_of_mem {a b : Int} (h₀ : -32768 ≤ a + b) (h₁ : a + b ≤ 32767) : satAdd16 a b = a + b := by
  rw [satAdd16, min_eq_right h₁, max_eq_right h₀]

/-- A sum that leaves s16 is outside [0, 255] after the shift on the same side, so clamping it to s16 first changes
nothing (R111). -/
theorem sat8_asr_satAdd16 (a b : Int) : sat8 (asr (satAdd16 a b) 6) = sat8 (asr (a + b) 6) := by
  rw [sat8, sat8, asr_six, asr_six, satAdd16]
  congr 1
  omega

/-! ## The inverse transform (R110) -/

theorem toNat_yuvLane (y u v : BitVec 16) :
    ((yuvLane y u v).toNat : Int) = max 0 (min 255 ((y.toInt + u.toInt + v.toInt) / 64)) := by
  rw [yuvLane, toNat_sat8, asr_six]

/-- The accumulator can only saturate in its second addition (R111). -/
theorem sat8_satAdd16_eq_yuvLane {y u v : BitVec 16} (h : u.toInt.natAbs + v.toInt.natAbs ≤ 32767) :
    sat8 (asr (satAdd16 (satAdd16 u.toInt v.toInt) y.toInt) 6) = yuvLane y u v := by
  have huv : satAdd16 u.toInt v.toInt = u.toInt + v.toInt := satAdd16_of_mem (by omega) (by omega)
  rw [sat8_asr_satAdd16, huv, yuvLane, add_comm, add_assoc]

/-! ## The default tables (R43) -/

/-- No lane of a table entry is larger than `n` in absolute value. -/
abbrev LanesWithin (n : Nat) (l : Lanes) : Prop :=
  l.b.toInt.natAbs ≤ n ∧ l.g.toInt.natAbs ≤ n ∧ l.r.toInt.natAbs ≤ n ∧ l.a.toInt.natAbs ≤ n

theorem lanesWithin_defaultUtab : ∀ u : Byte, LanesWithin 16530 (tableRow defaultTables.utab u) := by decide +kernel

theorem lanesWithin_defaultVtab : ∀ v : Byte, LanesWithin 13073 (tableRow defaultTables.vtab v) := by decide +kernel

theorem defaultYtab_row (y : Byte) : ∃ e, tableRow defaultTables.ytab y = ⟨e, e, e, 0⟩ := by
  simp [tableRow, defaultTables, defaultYtab]

theorem defaultUtab_alpha (u : Byte) : (tableRow defaultTables.utab u).a = 16383 := by
  simp [tableRow, defaultTables, defaultUtab, s16]

theorem defaultVtab_alpha (v : Byte) : (tableRow defaultTables.vtab v).a = 0 := by
  simp [tableRow, defaultTables, defaultVtab]

theorem defaultUtab_neutral : tableRow defaultTables.utab 128 = ⟨0, 0, 0, 16383⟩ := by decide +kernel

theorem defaultVtab_neutral : tableRow defaultTables.vtab 128 = ⟨0, 0, 0, 0⟩ := by decide +kernel

/-- The entries at which the shifted luma reaches 0 and 255. -/
theorem defaultYtab_ranges : ∀ y : Byte,
    let e := (tableRow defaultTables.ytab y).b.toInt
    (y.toNat ≤ 16 → e ≤ 0) ∧ (236 ≤ y.toNat → 255 * 64 ≤ e) ∧
      (16 < y.toNat → y.toNat < 236 → 0 ≤ e ∧ e < 255 * 64) := by
  decide +kernel

theorem yuvLane_default_alpha : yuvLane 0 16383 0 = 255 := by decide

/-- R112(a): the alpha entries of the three rows do not depend on the input. -/
theorem yuv2rgb_default_alpha (y u v : Byte) : (yuv2rgb defaultTables y u v).a = 255 := by
  obtain ⟨e, he⟩ := defaultYtab_row y
  rw [yuv2rgb, he, defaultUtab_alpha, defaultVtab_alpha]
  exact yuvLane_default_alpha

/-- R112(c): neutral chroma leaves the luma entry alone in the three colours. -/
theorem yuv2rgb_default_neutral (y : Byte) :
    let c := sat8 (asr (tableRow defaultTables.ytab y).b.toInt 6)
    yuv2rgb defaultTables y 128 128 = ⟨c, c, c, 255⟩ := by
  obtain ⟨e, he⟩ := defaultYtab_row y
  have hlane : yuvLane e 0 0 = sat8 (asr e.toInt 6) := by simp [yuvLane]
  rw [yuv2rgb, defaultUtab_neutral, defaultVtab_neutral, he]
  exact Pixel.mk.injEq .. ▸ ⟨hlane, hlane, hlane, yuvLane_default_alpha⟩

/-! ## The forward transform (R114-R116) -/

theorem toNat_rgb2y (r g b : Byte) :
    ((rgb2y r g b).toNat : Int) = (66 * r.toNat + 129 * g.toNat + 25 * b.toNat + 128) / 256 + 16 := by
  rw [rgb2y, asr_eight]
  exact toNat_u8 (by omega) (by omega)

theorem toNat_rgb2u (r g b : Byte) :
    ((rgb2u r g b).toNat : Int) = (-38 * r.toNat - 74 * g.toNat + 112 * b.toNat + 128) / 256 + 128 := by
  rw [rgb2u, asr_eight]
  exact toNat_u8 (by omega) (by omega)

theorem toNat_rgb2v (r g b : Byte) :
    ((rgb2v r g b).toNat : Int) = (112 * r.toNat - 94 * g.toNat - 18 * b.toNat + 128) / 256 + 128 := by
  rw [rgb2v, asr_eight]
  exact toNat_u8 (by omega) (by omega)

/-! ## Averages and packed fields (R118-R121) -/

theorem toNat_avg2 (a b : Byte) : (avg2 a b).toNat = (a.toNat + b.toNat + 1) / 2 := by
  have h : ((avg2 a b).toNat : Int) = (a.toNat + b.toNat + 1) / 2 :=
    toNat_u8 (by simp only [asr]; omega) (by simp only [asr]; omega)
  exact_mod_cast h

theorem toNat_avg4 (a b c d : Byte) : (avg4 a b c d).toNat = (a.toNat + b.toNat + c.toNat + d.toNat) / 4 := by
  have h : ((avg4 a b c d).toNat : Int) = (a.toNat + b.toNat + c.toNat + d.toNat) / 4 :=
    toNat_u8 (by simp only [asr]; omega) (by simp only [asr]; omega)
  exact_mod_cast h

/-- Concatenation places its first operand above its second (R120). -/
theorem toNat_append_eq_add {m n : Nat} (x : BitVec m) (y : BitVec n) :
    (x ++ y).toNat = x.toNat * 2 ^ n + y.toNat := by
  rw [BitVec.toNat_append, ← Nat.shiftLeft_add_eq_or_of_lt y.isLt, Nat.shiftLeft_eq]

/-- The high bits of a channel, down to bit `k`, are the truncated channel (R120). -/
theorem toNat_extractLsb'_high (x : Byte) {k n : Nat} (h : k + n = 8) :
    (x.extractLsb' k n).toNat = x.toNat / 2 ^ k := by
  rw [BitVec.extractLsb'_toNat, Nat.shiftRight_eq_div_pow, Nat.mod_eq_of_lt]
  exact Nat.div_lt_of_lt_mul (by rw [← pow_add, h]; exact x.isLt)

theorem toNat_pack565 (p : Pixel) :
    (pack565 p).toNat = p.r.toNat / 8 * 2 ^ 11 + p.g.toNat / 4 * 2 ^ 5 + p.b.toNat / 8 := by
  simp only [pack565, toNat_append_eq_add, toNat_extractLsb'_high _ (rfl : 3 + 5 = 8),
    toNat_extractLsb'_high _ (rfl : 2 + 6 = 8)]
  omega

theorem toNat_pack1555 (p : Pixel) :
    (pack1555 p).toNat =
      p.a.toNat / 128 * 2 ^ 15 + p.r.toNat / 8 * 2 ^ 10 + p.g.toNat / 8 * 2 ^ 5 + p.b.toNat / 8 := by
  simp only [pack1555, toNat_append_eq_add, toNat_extractLsb'_high _ (rfl : 3 + 5 = 8),
    toNat_extractLsb'_high _ (rfl : 7 + 1 = 8)]
  omega

theorem toNat_pack4444 (p : Pixel) :
    (pack4444 p).toNat =
      p.a.toNat / 16 * 2 ^ 12 + p.r.toNat / 16 * 2 ^ 8 + p.g.toNat / 16 * 2 ^ 4 + p.b.toNat / 16 := by
  simp only [pack4444, toNat_append_eq_add, toNat_extractLsb'_high _ (rfl : 4 + 4 = 8)]
  omega

/-! ## Pixel layouts (R123-R128) -/

@[simp] theorem ChanOrder.laneAt_offset (o : ChanOrder) (c : Lane) :
    ChanOrder.laneAt o (ChanOrder.offset o c) = c := by
  cases o <;> cases c <;> rfl

theorem ChanOrder.offset_laneAt (o : ChanOrder) : ∀ k < 4, ChanOrder.offset o (ChanOrder.laneAt o k) = k := by
  cases o <;> decide

theorem Rgb24Layout.laneAt_colorOffset (l : Rgb24Layout) {c : Lane} (hc : c ≠ .a) :
    Rgb24Layout.laneAt l (Rgb24Layout.colorOffset l c) = c := by
  cases c with
  | a => exact absurd rfl hc
  | b | g | r => cases l <;> rfl

theorem readPix32_writePix32 (o : ChanOrder) (p : Pixel) : readPix32 o (writePix32 o p) = p := by
  simp only [readPix32, writePix32, ChanOrder.laneAt_offset, Pixel.lane]

theorem readPix24_writePix24 (l : Rgb24Layout) (p : Pixel) : readPix24 l (writePix24 l p) = { p with a := 255 } := by
  simp [readPix24, writePix24, Rgb24Layout.laneAt_colorOffset, Pixel.lane]

/-! ## The obligations -/

/-- Settles O41: the chroma entries of the default tables are too small for U + V to saturate. -/
theorem saturatingAccumulatorAgrees : Obligations.SaturatingAccumulatorAgrees := by
  constructor
  · intro t y u v
    exact ⟨toNat_yuvLane .., toNat_yuvLane .., toNat_yuvLane .., toNat_yuvLane ..⟩
  · intro y u v ty tu tv lane
    obtain ⟨hub, hug, hur, hua⟩ := lanesWithin_defaultUtab u
    obtain ⟨hvb, hvg, hvr, hva⟩ := lanesWithin_defaultVtab v
    have hlane {a b c : BitVec 16} (hb : b.toInt.natAbs ≤ 16530) (hc : c.toInt.natAbs ≤ 13073) :
        yuvLane a b c = lane a b c := (sat8_satAdd16_eq_yuvLane (by omega)).symm
    exact Pixel.mk.injEq .. ▸ ⟨hlane hub hvb, hlane hug hvg, hlane hur hvr, hlane hua hva⟩

/-- Settles O42: with neutral chroma the colours are the shifted luma entry, whose ranges `defaultYtab_ranges` gives. -/
theorem defaultTableConsequences : Obligations.DefaultTableConsequences := by
  refine ⟨yuv2rgb_default_alpha, defaultUtab_neutral, defaultVtab_neutral, fun y => ?_, ?_⟩
  · intro q e
    obtain ⟨hlow, hhigh, hmid⟩ := defaultYtab_ranges y
    have hq : q = ⟨sat8 (asr e 6), sat8 (asr e 6), sat8 (asr e 6), 255⟩ := yuv2rgb_default_neutral y
    rw [hq]
    refine ⟨rfl, rfl, rfl, fun hy => ?_, fun hy => ?_, fun hy₁ hy₂ => ?_⟩
    · have := hlow hy
      exact sat8_of_nonpos (by rw [asr_six]; omega)
    · have := hhigh hy
      exact sat8_of_le (by rw [asr_six]; omega)
    · have := hmid hy₁ hy₂
      rw [toNat_sat8, asr_six]
      omega
  · rw [yuv2rgb_default_neutral]
    decide +kernel

/-- Settles O43: the formulas bound their own values, and with equal channels the weighted sum is 0. -/
theorem forwardTransformIsExact : Obligations.ForwardTransformIsExact := by
  refine ⟨fun r g b => ?_, fun g => ⟨BitVec.eq_of_toNat_eq ?_, BitVec.eq_of_toNat_eq ?_⟩⟩
  · have hy := toNat_rgb2y r g b
    have hu := toNat_rgb2u r g b
    have hv := toNat_rgb2v r g b
    exact ⟨hy, hu, hv, by omega, by omega, by omega, by omega, by omega, by omega⟩
  · have hu := toNat_rgb2u g g g
    change (rgb2u g g g).toNat = 128
    omega
  · have hv := toNat_rgb2v g g g
    change (rgb2v g g g).toNat = 128
    omega

/-- Settles O44: each average fits a byte, and each packed word is the concatenation of the high bits of its channels. -/
theorem averagesAndPackedFields : Obligations.AveragesAndPackedFields :=
  ⟨fun a b c d => ⟨toNat_avg2 a b, toNat_avg4 a b c d⟩, fun p => ⟨toNat_pack565 p, toNat_pack1555 p, toNat_pack4444 p⟩⟩

/-- Settles O45: `laneAt` is the inverse of `offset`. -/
theorem pixelLayouts : Obligations.PixelLayouts := by
  refine ⟨fun o k hk => ⟨ChanOrder.laneAt o k, ChanOrder.offset_laneAt o k hk, ?_⟩,
    fun p => ⟨rfl, rfl, rfl, rfl, rfl, rfl⟩, readPix32_writePix32, readPix24_writePix24⟩
  rintro d rfl
  exact (ChanOrder.laneAt_offset o d).symm

end Sys2Proof.Machine

/-! Proofs for the family spec/41_command_model.md: which command a step runs, its validation and its result code, the
planes with their rows, and START. -/

namespace Sys2Proof.Machine
open Sys2Proof.Config

/-! ## Which command a step runs (R141, R142) -/

/-- A command in flight reads its latched copy (R45). -/
theorem State.command_of_inFlight {s : State} {f : InFlight} (hf : s.inst.inFlight = some f) : s.command = f.regs := by
  rw [State.command, hf]

theorem State.runCurrent_of_decode {s : State} {i : Instr} (h : decode s.command.cmd = some i) :
    s.runCurrent = exec i s := by
  rw [State.runCurrent, h]

theorem State.runCurrent_of_illegal {s : State} (h : decode s.command.cmd = none) :
    s.runCurrent = .next (s.complete codeIllegalCommand) := by
  rw [State.runCurrent, h]

theorem CscInstance.busy_of_inFlight {x : CscInstance} {f : InFlight} (hf : x.inFlight = some f) : x.busy = true := by
  rw [CscInstance.busy, hf, Option.isSome_some]

theorem CscInstance.busy_eq_false_iff (x : CscInstance) : x.busy = false ↔ x.inFlight = none :=
  Option.isSome_eq_false_iff.trans Option.isNone_iff_eq_none

/-- An empty agenda runs the command in flight at the front of the instances. -/
theorem step_of_empty_busy {s : State} (ha : s.agenda = []) (hb : s.inst.busy = true) : step s = s.runCurrent := by
  rw [step_of_empty ha, State.runAny, if_pos hb]

/-- With no command in flight at the front, an empty agenda runs the lowest-numbered command in flight. -/
theorem step_of_empty_idle {s : State} {k : Nat} (ha : s.agenda = []) (hb : s.inst.busy = false)
    (hk : s.firstBusy = some k) : step s = (s.focus k).runCurrent := by
  rw [step_of_empty ha, State.runAny, hb, if_neg Bool.false_ne_true, hk]

theorem State.firstBusy_of_lowest {s : State} {k : Nat} {x : CscInstance} (hk : s.instances[k]? = some x)
    (hx : x.busy = true)
    (hlow : ∀ (m : Nat) (y : CscInstance), m < k → s.instances[m]? = some y → y.busy = false) :
    s.firstBusy = some k := by
  have hlt : k < s.instances.length := (List.getElem?_eq_some_iff.mp hk).1
  refine List.find?_range_eq_some.mpr ⟨by rw [hk]; exact hx, List.mem_range.mpr (s.instances_length ▸ hlt),
    fun m hm => ?_⟩
  have hget : s.instances[m]? = some (s.instances[m]'(hm.trans hlt)) := List.getElem?_eq_getElem _
  rw [hget, Bool.not_eq_true']
  exact hlow m _ hm hget

/-- The command in flight on the `k`-th of the instances runs when the agenda names it. -/
theorem State.runInstance_of_busy {s : State} {k : Nat} {x : CscInstance} (hk : s.instances[k]? = some x)
    (hx : x.busy = true) : s.runInstance k = (s.focus k).runCurrent := by
  have hlt : k < s.nInstances := s.instances_length ▸ (List.getElem?_eq_some_iff.mp hk).1
  obtain ⟨hinst, -⟩ := State.focus_of_getElem? hk
  rw [State.runInstance, if_pos]
  simp [hlt, hinst, hx]

/-- With the `k`-th of the instances in front, the machine runs the command latched there. -/
theorem State.runCurrent_focus {s : State} {k : Nat} {x : CscInstance} {f : InFlight} {i : Instr}
    (hk : s.instances[k]? = some x) (hf : x.inFlight = some f) (hi : decode f.regs.cmd = some i) :
    (s.focus k).runCurrent = exec i (s.focus k) := by
  have hflight : (s.focus k).inst.inFlight = some f := by rw [(State.focus_of_getElem? hk).1, hf]
  exact State.runCurrent_of_decode (by rw [State.command_of_inFlight hflight, hi])

/-- Settles O6: each of the three steps is `runCurrent` with the `k`-th of the instances in front. -/
theorem stepRunsTheDecodedCommand : Obligations.StepRunsTheDecodedCommand := by
  intro s k x f i hk hf hi
  have hbusy : x.busy = true := CscInstance.busy_of_inFlight hf
  obtain ⟨hinst, -⟩ := State.focus_of_getElem? hk
  have hcur (e : k = s.current) : s.focus k = s := by rw [e, State.focus_current]
  refine ⟨hcur, hinst, s.instances_focus k, s.focus_rest k, fun ha e => ?_, fun ha hidle hlow => ?_, fun rest ha => ?_⟩
  · rw [hcur e] at hinst
    rw [step_of_empty_busy ha (hinst ▸ hbusy), ← hcur e, State.runCurrent_focus hk hf hi]
  · have hfirst : s.firstBusy = some k := State.firstBusy_of_lowest hk hbusy fun m y hm hy =>
      y.busy_eq_false_iff.mpr (hlow m y hm hy)
    rw [step_of_empty_idle ha (s.inst.busy_eq_false_iff.mpr hidle) hfirst, State.runCurrent_focus hk hf hi]
  · calc step s
      _ = State.runInstance { s with agenda := rest } k := step_of_entry ha
      _ = (State.focus { s with agenda := rest } k).runCurrent := State.runInstance_of_busy hk hbusy
      _ = exec i (State.focus { s with agenda := rest } k) := State.runCurrent_focus hk hf hi

/-! ## Validation and result codes (R144, R145, R270-R273) -/

theorem CscInstance.complete_illegalCommand (x : CscInstance) : x.complete codeIllegalCommand =
    { x with result := BitVec.ofInt 32 (-2), inFlight := none, done := true, err := true } := rfl

theorem CscInstance.complete_invalidArgument (x : CscInstance) : x.complete codeInvalidArgument =
    { x with result := BitVec.ofInt 32 (-1), inFlight := none, done := true, err := true } := rfl

theorem CscInstance.complete_busError (x : CscInstance) : x.complete codeBusError =
    { x with result := BitVec.ofInt 32 (-3), inFlight := none, done := true, err := true } := rfl

theorem CscInstance.complete_ok (x : CscInstance) : x.complete codeOk =
    { x with result := 0, inFlight := none, done := true, err := false } := rfl

/-- A null required plane or an illegal size completes a command with INVALID_ARGUMENT (R144, R145). -/
theorem exec_invalid {i : Instr} {s : State} (h : (ruleOf i).valid s.command = false) :
    exec i s = .next (s.complete codeInvalidArgument) :=
  (exec_eq_runOperation i s).trans (runOperation_invalid h)

theorem State.complete_keepsRegisters (s : State) (c : Word) : KeepsRegisters s (s.complete c) :=
  ⟨rfl, rfl, rfl, rfl, rfl, rfl⟩

theorem State.complete_perform_keepsRegisters (s : State) (j : Job) (cut : Bool) (c : Word) :
    KeepsRegisters s ((s.perform j cut).complete c) :=
  ⟨rfl, rfl, rfl, rfl, rfl, rfl⟩

/-- Settles O10: a command ends in one of the three ways of `runOperation_cases`. -/
theorem execCompletesAndKeepsRegisters : Obligations.ExecCompletesAndKeepsRegisters := by
  intro i s
  rw [exec_eq_runOperation]
  rcases runOperation_cases (ruleOf i) s with ⟨-, e⟩ | ⟨-, -, e⟩ | ⟨-, -, e⟩
  · exact ⟨_, -1, e, .inr (.inl rfl), s.inst.complete_invalidArgument, s.complete_keepsRegisters _⟩
  · exact ⟨_, 0, e, .inl rfl, s.inst.complete_ok, s.complete_perform_keepsRegisters _ _ _⟩
  · exact ⟨_, -3, e, .inr (.inr rfl), s.inst.complete_busError, s.complete_perform_keepsRegisters _ _ _⟩

/-- Settles O7: each failed check answers the same state, completed with its code. -/
theorem failedChecksTouchNothing : Obligations.FailedChecksTouchNothing := by
  constructor
  · intro s f ha hf hd
    rw [step_of_empty_busy ha (CscInstance.busy_of_inFlight hf),
      State.runCurrent_of_illegal (State.command_of_inFlight hf ▸ hd)]
    rfl
  · intro i s h
    have hinvalid : (ruleOf i).valid s.command = false := by
      rw [Bool.eq_false_iff, ne_eq, Operation.valid_iff]
      rintro ⟨hptr, hw, hh, hmin⟩
      rcases h with ⟨p, hp, hz⟩ | h | h | h
      · exact hptr p hp hz
      · omega
      · exact hh h
      · exact hmin h
    exact exec_invalid hinvalid

/-- Settles O8: the outcomes of a command exclude each other, so each cause has the code of its own outcome. -/
theorem resultFollowsPriority : Obligations.ResultFollowsPriority := by
  intro s f ha hf
  have hcmd := State.command_of_inFlight hf
  rw [step_of_empty_busy ha (CscInstance.busy_of_inFlight hf)]
  cases hd : decode f.regs.cmd with
  | none =>
    exact ⟨_, State.runCurrent_of_illegal (by rw [hcmd, hd]), rfl, rfl, fun _ => ⟨rfl, rfl⟩, nofun⟩
  | some i =>
    rw [State.runCurrent_of_decode (by rw [hcmd, hd]), exec_eq_runOperation]
    rcases runOperation_cases (ruleOf i) s with ⟨hv, e⟩ | ⟨hv, hm, e⟩ | ⟨hv, hm, e⟩
    · refine ⟨_, e, rfl, rfl, nofun, ?_⟩
      rintro _ ⟨⟩
      rw [hcmd, Bool.eq_false_iff, ne_eq, Operation.valid_iff] at hv
      exact ⟨fun _ => ⟨rfl, rfl⟩, fun hp => ⟨fun _ => ⟨rfl, rfl⟩, fun hs => absurd ⟨hp, hs⟩ hv⟩⟩
    · refine ⟨_, e, rfl, rfl, nofun, ?_⟩
      rintro _ ⟨⟩
      rw [hcmd, Operation.valid_iff] at hv
      obtain ⟨hptr, hsize⟩ := hv
      exact ⟨fun ⟨p, hp, hz⟩ => absurd hz (hptr p hp), fun _ => ⟨fun hs => absurd hsize hs,
        fun _ => ⟨fun hno => (nomatch hm.symm.trans hno), fun _ => ⟨rfl, rfl⟩⟩⟩⟩
    · refine ⟨_, e, rfl, rfl, nofun, ?_⟩
      rintro _ ⟨⟩
      rw [hcmd, Operation.valid_iff] at hv
      obtain ⟨hptr, hsize⟩ := hv
      exact ⟨fun ⟨p, hp, hz⟩ => absurd hz (hptr p hp), fun _ => ⟨fun hs => absurd hsize hs,
        fun _ => ⟨fun _ => ⟨rfl, rfl⟩, fun hyes => (nomatch hm.symm.trans hyes)⟩⟩⟩

/-! ## Planes and rows (R97, R147-R150) -/

/-- Settles O17: each rule's list of required planes, and its planes' sizes, are those of the table by definition. -/
theorem planeTable : Obligations.PlaneTable := by
  intro t L g o o' l y i420 size
  and_intros <;> rfl

/-- A plane with its rows iterated from the last to the first (R147). -/
def Plane.reversed (p : Plane) : Plane := { p with row := fun r => p.row (p.rows - 1 - r) }

theorem Plane.getElem?_map_reversed {ps : List Plane} {k : Nat} {p : Plane}
    (h : (ps.map Plane.reversed)[k]? = some p) :
    ∃ q, ps[k]? = some q ∧ q.rows = p.rows ∧ ∀ r < p.rows, p.row r = q.row (p.rows - 1 - r) := by
  rw [List.getElem?_map] at h
  obtain ⟨q, hq, rfl⟩ := Option.map_eq_some_iff.mp h
  exact ⟨q, hq, rfl, fun _ _ => rfl⟩

section
variable (i : Instr) (t : Tables) (L : CmdRegs) (w h : Nat)

/-- A flip reverses every source plane (R147). -/
theorem ruleOf_srcs_flipped : ((ruleOf i).job t L ⟨w, h, true⟩).srcs =
    ((ruleOf i).job t L ⟨w, h, false⟩).srcs.map Plane.reversed := by
  cases i with
  | nv420toi420 lay => cases lay <;> rfl
  | _ => rfl

/-- A flip leaves the destination planes of a command with a source as they are (R147). -/
theorem ruleOf_dsts_flipped_of_srcs (hs : ((ruleOf i).job t L ⟨w, h, true⟩).srcs ≠ []) :
    ((ruleOf i).job t L ⟨w, h, true⟩).dsts = ((ruleOf i).job t L ⟨w, h, false⟩).dsts := by
  cases i with
  | pset | i420rect => exact absurd rfl hs
  | _ => rfl

/-- A flip reverses the destination planes of a command without a source (R147). -/
theorem ruleOf_dsts_flipped_of_no_srcs (hs : ((ruleOf i).job t L ⟨w, h, true⟩).srcs = []) :
    ((ruleOf i).job t L ⟨w, h, true⟩).dsts = ((ruleOf i).job t L ⟨w, h, false⟩).dsts.map Plane.reversed := by
  cases i with
  | pset | i420rect => rfl
  | nv420toi420 lay => cases lay <;> cases hs
  | _ => cases hs

end

theorem Plane.toNat_byteAddr (p : Plane) (r i : Nat) :
    (p.byteAddr r i).toNat = ((p.row r).toNat + i) % 2 ^ 32 := by
  rw [Plane.byteAddr, BitVec.toNat_add, BitVec.toNat_ofNat, Nat.add_mod_mod]

/-- Settles O18: a flip reverses lists of planes as a whole; the addresses are the model's own formulas. -/
theorem rowAddresses : Obligations.RowAddresses := by
  refine ⟨?_, Plane.toNat_byteAddr, fun L g p rows bytes r => ⟨rfl, rfl, rfl, rfl, rfl, rfl⟩⟩
  rintro i t L ⟨w, h, _⟩ k p rfl
  refine ⟨fun hk => ?_, fun hs hk => ?_, fun hs hk => ?_⟩
  · exact Plane.getElem?_map_reversed (ruleOf_srcs_flipped i t L w h ▸ hk)
  · exact ⟨p, ruleOf_dsts_flipped_of_srcs i t L w h hs ▸ hk, rfl, fun _ => rfl⟩
  · exact Plane.getElem?_map_reversed (ruleOf_dsts_flipped_of_no_srcs i t L w h hs ▸ hk)

/-- Going back `r` rows is `r` steps of the negated stride (R149). -/
theorem storedRow_sub (addr : Word) (stride : Int) {m r : Nat} (h : r ≤ m) :
    storedRow addr stride (m - r) = storedRow addr stride m + r * -stride := by
  rw [storedRow, storedRow, Nat.cast_sub h]
  ring

/-- With two equal strides the two-stride rows are the single-stride ones (R171). -/
theorem storedRowTwoStride_self (addr : Word) (stride : Int) (k : Nat) :
    storedRowTwoStride addr stride stride k = storedRow addr stride k := by
  have hsum : (k + 1) / 2 + k / 2 = k := by omega
  rw [storedRowTwoStride, storedRow, add_assoc, ← add_mul, ← Nat.cast_add, hsum]

/-- Settles O19: a flipped plane is the reversed one, and stored rows are equally spaced. -/
theorem flippedRowsArePointerForm : Obligations.FlippedRowsArePointerForm := by
  constructor
  · rintro L ⟨w, h, _⟩ p rows bytes r rfl hr
    exact ⟨congrArg toAddress (storedRow_sub _ _ (Nat.le_sub_one_of_lt hr)), rfl, rfl, rfl⟩
  · intro L g rows bytes r hstride
    rw [srcPlaneTwoStride, hstride]
    exact congrArg toAddress (storedRowTwoStride_self _ _ _)

/-! ## START (R140) -/

/-- Settles O49: without SOFT_RESET a CTRL write has the two outcomes of `writeCtrl_cases`. -/
theorem ctrlWriteStartsOrIsIgnored : Obligations.CtrlWriteStartsOrIsIgnored := by
  intro s a v k x hw hk hoff hreset
  obtain ⟨rfl, -⟩ := State.focus_of_getElem? hk
  have hal : (a - s.windowBase k).toNat % 4 = 0 := by rw [hoff]
  have hreg : (s.focus k).writeReg (regAt (a - s.windowBase k).toNat) v = (s.focus k).writeCtrl v := by rw [hoff]; rfl
  rcases (s.focus k).writeCtrl_cases v with ⟨h, -⟩ | ⟨-, hstart, hidle, h⟩ | ⟨-, hno, h⟩
  · exact nomatch hreset.symm.trans h
  · obtain ⟨t, ht, hsame, hset⟩ := State.busWrite_replaces hw hal (hreg.trans h)
    refine ⟨t, _, ht, hsame, hset, fun _ _ => ⟨rfl, rfl⟩, ?_⟩
    rintro (h0 | hbusy)
    · exact nomatch hstart.symm.trans h0
    · exact nomatch hidle.symm.trans hbusy
  · obtain ⟨t, ht, hsame, hset⟩ := State.busWrite_replaces hw hal (hreg.trans h)
    refine ⟨t, _, ht, hsame, hset, fun h1 hnone => ?_, fun _ => ⟨rfl, rfl⟩⟩
    rw [h1, CscInstance.busy_eq_false_iff _ |>.mpr hnone] at hno
    exact absurd hno nofun

end Sys2Proof.Machine

/-! Proofs for the family spec/42_plane_ops.md: copying, mirroring, filling and de-interleaving a plane. -/

namespace Sys2Proof.Machine

/-! ## Source and destination planes, byte by byte -/

/-- A byte of a command's single-stride source plane, as the rules name it (R148(a), R150). -/
theorem State.sourceBytes_srcPlane (s : State) (i : Instr) (k : Nat) {p : PlaneId} {rows bytes : Nat}
    (hk : ((ruleOf i).jobOn s).srcs[k]? = some (srcPlane s.command s.geo p rows bytes)) (r b : Nat) :
    s.sourceBytes ((ruleOf i).jobOn s) true k r b = s.srcByte p rows r b :=
  State.sourceBytes_intact hk

theorem outside_singleton_iff (d : Plane) (a : Word) : Outside [d] a ↔ ¬ d.covers a := by
  simp [Outside]

theorem outside_cons_iff (d : Plane) (ps : List Plane) (a : Word) :
    Outside (d :: ps) a ↔ ¬ d.covers a ∧ Outside ps a := by
  simp [Outside]

/-- A destination plane of a command without a source, read at the iteration row that is stored row `r` (R147). -/
theorem fillPlane_byteAddr (s : State) (p : PlaneId) {rows bytes r : Nat} (hr : r < rows) (b : Nat) :
    (fillPlane s.command s.geo p rows bytes).byteAddr (iterationRow s.geo.flip rows r) b = s.dstAddr p r b := by
  have hrow : (fillPlane s.command s.geo p rows bytes).row (iterationRow s.geo.flip rows r) =
      (dstPlane s.command p rows bytes).row r :=
    congrArg (fun k => toAddress (storedRow (s.command.addrOf p) (s.command.strideOf p) k))
      (iterationRow_involutive hr).2
  rw [Plane.byteAddr, hrow]
  rfl

/-- With or without a flip, such a plane designates the bytes `NotStored` names (R147). -/
theorem fillPlane_not_covers {s : State} {p : PlaneId} {rows bytes : Nat} {a : Word} (h : NotStored s p rows bytes a) :
    ¬ (fillPlane s.command s.geo p rows bytes).covers a :=
  fun ⟨r, hr, b, hb, e⟩ => h (iterationRow s.geo.flip rows r) (iterationRow_involutive hr).1 b hb e

/-- The claim of a command whose one destination is DST0, from the value its rule gives each byte. -/
theorem ruleHolds_of_dst0 {i : Instr} {word : Word} {req : List PlaneId} {s : State} {bytes : Nat}
    {v : Nat → Nat → Byte} (hd : decode word = some i) (hreq : (ruleOf i).req = req)
    (hdst : ((ruleOf i).jobOn s).dsts = [dstPlane s.command .dst0 s.geo.h bytes])
    (hv : ∀ r b, ((ruleOf i).jobOn s).value (s.sourceBytes ((ruleOf i).jobOn s) true) 0 r b = v r b) :
    RuleHolds i word req s fun t =>
      (∀ r < s.geo.h, ∀ b < bytes, t.byte (s.dstAddr .dst0 r b) = v r b) ∧
      ∀ a, NotStored s .dst0 s.geo.h bytes a → t.byte a = s.byte a := by
  refine ruleHolds_of hd hreq fun t hin hout => ?_
  rw [hdst] at hin hout
  refine ⟨fun r hr b hb => ?_, fun a ha => hout a ((outside_singleton_iff _ a).mpr (dstPlane_not_covers ha))⟩
  exact (hin 0 _ r b rfl hr hb).trans (hv r b)

/-! ## The obligations -/

/-- Settles O20: PCOPY's value is the source byte of the same row and column. -/
theorem pcopyCopiesEachByte : Obligations.PcopyCopiesEachByte := fun s =>
  ruleHolds_of_dst0 (by decide) rfl rfl fun r b => s.sourceBytes_srcPlane .pcopy 0 rfl r b

/-- Settles O21: as PCOPY, from rows of two alternating strides. -/
theorem pcopy2CopiesTwoStrideRows : Obligations.Pcopy2CopiesTwoStrideRows := fun s =>
  ruleHolds_of_dst0 (by decide) rfl rfl fun _ _ =>
    State.sourceBytes_intact (j := (ruleOf .pcopy2).jobOn s) (k := 0)
      (p := srcPlaneTwoStride s.command s.geo s.geo.h s.geo.w) rfl

/-- Settles O22: PMIRROR's value is the source byte of the same row and the opposite column. -/
theorem pmirrorReversesEachRow : Obligations.PmirrorReversesEachRow := fun s =>
  ruleHolds_of_dst0 (by decide) rfl rfl fun r b => s.sourceBytes_srcPlane .pmirror 0 rfl r (s.geo.w - 1 - b)

/-- Settles O23: every byte is given FILL[7:0], and a flip only reorders the rows that are filled. -/
theorem psetFillsThePlane : Obligations.PsetFillsThePlane := by
  intro s
  refine ruleHolds_of (by decide) rfl fun t hin hout => ⟨fun r hr b hb => ?_, fun a ha => hout a ?_⟩
  · rw [← fillPlane_byteAddr s .dst0 (bytes := s.geo.w) hr b]
    exact hin 0 _ _ b rfl (iterationRow_involutive hr).1 hb
  · exact (outside_singleton_iff _ a).mpr (fillPlane_not_covers ha)

/-- Settles O24: stream A is the first destination plane and stream B the second. -/
theorem psplit2SeparatesTheStreams : Obligations.Psplit2SeparatesTheStreams := by
  intro s
  refine ruleHolds_of (by decide) rfl fun t hin hout => ⟨fun r hr b hb => ⟨?_, ?_⟩, fun a hA hB => hout a ?_⟩
  · exact (hin 0 _ r b rfl hr hb).trans (s.sourceBytes_srcPlane .psplit2 0 rfl r (2 * b))
  · exact (hin 1 _ r b rfl hr hb).trans (s.sourceBytes_srcPlane .psplit2 0 rfl r (2 * b + 1))
  · exact (outside_cons_iff _ _ a).mpr
      ⟨dstPlane_not_covers hA, (outside_singleton_iff _ a).mpr (dstPlane_not_covers hB)⟩

/-! ## Mirroring twice (R175) -/

/-- The geometry is that of WIDTH and HEIGHT alone (R146). -/
theorem State.geo_congr {s s' : State} (hw : s'.command.width = s.command.width)
    (hh : s'.command.height = s.command.height) : s'.geo = s.geo := by
  unfold State.geo CmdRegs.geometry CmdRegs.signedWidth CmdRegs.signedHeight
  rw [hw, hh]

/-- What a clean PMIRROR leaves in its destination (R172). -/
theorem byte_of_pmirror {s t : State} (hc : cleanRun .pmirror s = true) (ht : exec .pmirror s = .next t) {r i : Nat}
    (hr : r < s.geo.h) (hi : i < s.geo.w) :
    t.byte (s.dstAddr .dst0 r i) = s.srcByte .src0 s.geo.h r (s.geo.w - 1 - i) := by
  obtain ⟨-, -, -, hrun⟩ := pmirrorReversesEachRow s
  obtain ⟨u, hu, -, hbytes, -⟩ := hrun hc
  cases hu.symm.trans ht
  exact hbytes r hr i hi

/-- Without a flip, a source plane whose descriptor is a destination's has that destination's rows (R147, R148(a)). -/
theorem State.srcAddr_eq_dstAddr {s s' : State} {p q : PlaneId} (hflip : s'.geo.flip = false)
    (hplane : s'.command.plane p = s.command.plane q) (rows r i : Nat) :
    s'.srcAddr p rows r i = s.dstAddr q r i := by
  simp only [State.srcAddr, State.dstAddr, CmdRegs.addrOf, CmdRegs.strideOf, hplane, hflip, iterationRow,
    Bool.false_eq_true, if_false]

theorem State.geo_not_flipped {s : State} (h : 0 < sext32 s.command.height) : s.geo.flip = false :=
  decide_eq_false (not_lt.mpr h.le)

/-- Settles O46: the second run reads, in the opposite column, what the first one stored. -/
theorem mirrorTwiceRestoresThePlane : Obligations.MirrorTwiceRestoresThePlane := by
  intro s₁ t₁ s₂ t₂ hc₁ ht₁ hmem hc₂ ht₂ hw hh hpos hplane r hr i hi
  have hgeo : s₂.geo = s₁.geo := State.geo_congr hw hh
  have hopp : s₁.geo.w - 1 - i < s₁.geo.w := by omega
  calc t₂.byte (s₂.dstAddr .dst0 r i)
    _ = s₂.byte (s₂.srcAddr .src0 s₂.geo.h r (s₂.geo.w - 1 - i)) :=
      byte_of_pmirror hc₂ ht₂ (hgeo ▸ hr) (hgeo ▸ hi)
    _ = t₁.byte (s₁.dstAddr .dst0 r (s₁.geo.w - 1 - i)) := by
      rw [State.srcAddr_eq_dstAddr (p := .src0) (q := .dst0) (hgeo ▸ State.geo_not_flipped hpos) hplane, State.byte,
        State.byte, hmem, hgeo]
    _ = s₁.srcByte .src0 s₁.geo.h r (s₁.geo.w - 1 - (s₁.geo.w - 1 - i)) := byte_of_pmirror hc₁ ht₁ hr hopp
    _ = s₁.srcByte .src0 s₁.geo.h r i := by rw [Nat.sub_sub_self (Nat.le_sub_one_of_lt hi)]

end Sys2Proof.Machine

/-! Proofs for the family spec/43_yuv_planar.md: the planar YUV conversions, whose destination is always I420. -/

namespace Sys2Proof.Machine

/-! ## The three planes of an I420 destination -/

/-- The claim of a command with a source and an I420 destination, from the values its rule gives Y, U and V. -/
theorem ruleHolds_of_i420 {i : Instr} {word : Word} {req : List PlaneId} {s : State} {y u v : Nat → Nat → Byte}
    (hd : decode word = some i) (hreq : (ruleOf i).req = req)
    (hdst : ((ruleOf i).jobOn s).dsts = i420Dst s.command s.geo)
    (hy : ∀ r x, ((ruleOf i).jobOn s).value (s.sourceBytes ((ruleOf i).jobOn s) true) 0 r x = y r x)
    (hu : ∀ j x, ((ruleOf i).jobOn s).value (s.sourceBytes ((ruleOf i).jobOn s) true) 1 j x = u j x)
    (hv : ∀ j x, ((ruleOf i).jobOn s).value (s.sourceBytes ((ruleOf i).jobOn s) true) 2 j x = v j x) :
    RuleHolds i word req s fun t =>
      (∀ r < s.geo.h, ∀ x < s.geo.w, t.byte (s.dstAddr .dst0 r x) = y r x) ∧
      (∀ j < s.geo.ch, ∀ x < s.geo.cw,
        t.byte (s.dstAddr .dst1 j x) = u j x ∧ t.byte (s.dstAddr .dst2 j x) = v j x) ∧
      ∀ a, NotStoredI420 s a → t.byte a = s.byte a := by
  refine ruleHolds_of hd hreq fun t hin hout => ?_
  rw [hdst] at hin hout
  refine ⟨fun r hr x hx => ?_, fun j hj x hx => ⟨?_, ?_⟩, fun a ha => hout a (i420Dst_outside ha)⟩
  · exact (hin 0 _ r x rfl hr hx).trans (hy r x)
  · exact (hin 1 _ j x rfl hj hx).trans (hu j x)
  · exact (hin 2 _ j x rfl hj hx).trans (hv j x)

/-- The average of source rows 2j and min(2j+1, h-1) at one column, as the rules name it (R193, R196). -/
theorem State.avg2_sourceBytes_srcPlane (s : State) (i : Instr) (k : Nat) {p : PlaneId} {bytes : Nat}
    (hk : ((ruleOf i).jobOn s).srcs[k]? = some (srcPlane s.command s.geo p s.geo.h bytes)) (j b : Nat) :
    avg2 (s.sourceBytes ((ruleOf i).jobOn s) true k (2 * j) b)
        (s.sourceBytes ((ruleOf i).jobOn s) true k (pairRow s.geo.h j) b) =
      avg2 (s.srcByte p s.geo.h (2 * j) b) (s.srcByte p s.geo.h (min (2 * j + 1) (s.geo.h - 1)) b) :=
  congrArg₂ avg2 (s.sourceBytes_srcPlane i k hk (2 * j) b) (s.sourceBytes_srcPlane i k hk (pairRow s.geo.h j) b)

/-! ## The obligations -/

/-- Settles O25: each plane's value is the byte of the same row and column of its source plane. -/
theorem i420CopyCopiesThreePlanes : Obligations.I420CopyCopiesThreePlanes := fun s =>
  ruleHolds_of_i420 (by decide) rfl rfl
    (s.sourceBytes_srcPlane .i420copy 0 rfl)
    (s.sourceBytes_srcPlane .i420copy 1 rfl)
    (s.sourceBytes_srcPlane .i420copy 2 rfl)

/-- Settles O26: each plane's value is the source byte of the opposite column, counted over the plane's own width. -/
theorem i420MirrorMirrorsThreePlanes : Obligations.I420MirrorMirrorsThreePlanes := fun s =>
  ruleHolds_of_i420 (by decide) rfl rfl
    (fun r x => s.sourceBytes_srcPlane .i420mirror 0 rfl r (s.geo.w - 1 - x))
    (fun j x => s.sourceBytes_srcPlane .i420mirror 1 rfl j (s.geo.cw - 1 - x))
    (fun j x => s.sourceBytes_srcPlane .i420mirror 2 rfl j (s.geo.cw - 1 - x))

/-- Settles O27: each plane is filled with its own byte of FILL, and a flip only reorders the rows that are filled. -/
theorem i420RectFillsThreePlanes : Obligations.I420RectFillsThreePlanes := by
  intro s
  refine ruleHolds_of (by decide) rfl fun t hin hout => ?_
  have hfill (k : Nat) {p : PlaneId} {rows bytes : Nat}
      (hk : ((ruleOf .i420rect).jobOn s).dsts[k]? = some (fillPlane s.command s.geo p rows bytes)) {r b : Nat}
      (hr : r < rows) (hb : b < bytes) : t.byte (s.dstAddr p r b) =
        if k = 0 then s.command.fillY else if k = 1 then s.command.fillU else s.command.fillV := by
    rw [← fillPlane_byteAddr s p (bytes := bytes) hr b]
    exact hin k _ _ b hk (iterationRow_involutive hr).1 hb
  refine ⟨fun r hr x hx => hfill 0 rfl hr hx, fun j hj x hx => ⟨hfill 1 rfl hj hx, hfill 2 rfl hj hx⟩,
    fun a ⟨hy, hu, hv⟩ => hout a ?_⟩
  exact (outside_cons_iff _ _ a).mpr ⟨fillPlane_not_covers hy, (outside_cons_iff _ _ a).mpr
    ⟨fillPlane_not_covers hu, (outside_singleton_iff _ a).mpr (fillPlane_not_covers hv)⟩⟩

/-- Settles O28: luma is copied, and a chroma byte is the average of two rows of its own source plane. -/
theorem i422ToI420AveragesChromaRows : Obligations.I422ToI420AveragesChromaRows := fun s =>
  ruleHolds_of_i420 (by decide) rfl rfl
    (s.sourceBytes_srcPlane .i422toi420 0 rfl)
    (s.avg2_sourceBytes_srcPlane .i422toi420 1 rfl)
    (s.avg2_sourceBytes_srcPlane .i422toi420 2 rfl)

/-- Settles O29: both layouts split one chroma source plane, which NV12 has at SRC1 and M420 among the rows of SRC0. -/
theorem nv420ToI420SplitsChroma : Obligations.Nv420ToI420SplitsChroma := by
  refine ⟨fun s => ?nv12, fun s => ?m420⟩
  case nv12 =>
    exact ruleHolds_of_i420 (by decide) rfl rfl
      (s.sourceBytes_srcPlane (.nv420toi420 .nv12) 0 rfl)
      (fun j x => s.sourceBytes_srcPlane (.nv420toi420 .nv12) 1 rfl j (2 * x))
      (fun j x => s.sourceBytes_srcPlane (.nv420toi420 .nv12) 1 rfl j (2 * x + 1))
  case m420 =>
    have hluma (r b : Nat) := State.sourceBytes_intact (s := s) (j := (ruleOf (.nv420toi420 .m420)).jobOn s) (k := 0)
      (p := srcPlaneM420Y s.command s.geo s.geo.h s.geo.w) (r := r) (i := b) rfl
    have hchroma (j b : Nat) := State.sourceBytes_intact (s := s) (j := (ruleOf (.nv420toi420 .m420)).jobOn s) (k := 1)
      (p := srcPlaneM420UV s.command s.geo s.geo.ch (2 * s.geo.cw)) (r := j) (i := b) rfl
    exact ruleHolds_of_i420 (by decide) rfl rfl hluma
      (fun j x => hchroma j (2 * x)) (fun j x => hchroma j (2 * x + 1))

/-- Settles O30: a macropixel is read at the offsets of R129, which the statement writes out for each order. -/
theorem p422ToI420DeinterleavesMacropixels : Obligations.P422ToI420DeinterleavesMacropixels := by
  intro s o
  have holds {word : Word} (hd : decode word = some (.p422toi420 o)) :=
    ruleHolds_of_i420 (s := s) hd rfl rfl
      (fun r x => s.sourceBytes_srcPlane (.p422toi420 o) 0 rfl r (4 * (x / 2) + Yuv422Order.yoff o (x % 2)))
      (fun j x => s.avg2_sourceBytes_srcPlane (.p422toi420 o) 0 rfl j (4 * x + Yuv422Order.uoff o))
      (fun j x => s.avg2_sourceBytes_srcPlane (.p422toi420 o) 0 rfl j (4 * x + Yuv422Order.voff o))
  cases o with
  | yuyv => exact holds (by decide)
  | uyvy => exact holds (by decide)

end Sys2Proof.Machine

/-! Proofs for the family spec/44_yuv_to_rgb.md: the YUV to RGB32 conversions, which differ only in where a pixel's
chroma is read. -/

namespace Sys2Proof.Machine

/-! ## RGB32 destinations (R210) -/

/-- The words R211-R214 give these commands are the encodings of their mnemonics, whatever the order. -/
theorem decode_dordWord {op : Nat} {o : ChanOrder} {i : Instr} (h : i.fields = ⟨op, 0, o.code, 0, 0⟩) :
    decode (dordWord op o) = some i := by
  have hword : encode i = dordWord op o := by simp [encode, h, CmdFields.toWord, dordWord]
  rw [← hword, decode_encode]

/-- The byte a destination row holds for one channel of pixel `x` (R123, R210). -/
theorem rgb32RowByte_offset (o : ChanOrder) (pixel : Nat → Pixel) (x : Nat) (c : Lane) :
    rgb32RowByte o pixel (4 * x + ChanOrder.offset o c) = (pixel x).lane c := by
  have hlt := ChanOrder.offset_lt o c
  have hpixel : (4 * x + ChanOrder.offset o c) / 4 = x := by omega
  have hbyte : (4 * x + ChanOrder.offset o c) % 4 = ChanOrder.offset o c := by omega
  rw [rgb32RowByte, hpixel, hbyte, writePix32, ChanOrder.laneAt_offset]

/-- A rule's claim for its pseudocode is one for whatever follows from it. -/
theorem RuleHolds.mono {i : Instr} {word : Word} {req : List PlaneId} {s : State} {post post' : State → Prop}
    (h : RuleHolds i word req s post) (himp : ∀ t, post t → post' t) : RuleHolds i word req s post' := by
  obtain ⟨hd, hinvalid, hbus, hclean⟩ := h
  refine ⟨hd, hinvalid, hbus, fun hc => ?_⟩
  obtain ⟨t, hexec, hdone, ht⟩ := hclean hc
  exact ⟨t, hexec, hdone, himp t ht⟩

/-- The claim of a command whose destination is RGB32: `pixel` is the colour its rule gives each pixel in terms of the
source bytes, and `color` is that colour as the claim names it. -/
theorem ruleHolds_of_rgb32 {i : Instr} {word : Word} {req : List PlaneId} {s : State} {o : ChanOrder}
    {pixel color : Nat → Nat → Pixel} (hd : decode word = some i) (hreq : (ruleOf i).req = req)
    (hdst : ((ruleOf i).jobOn s).dsts = [dstPlane s.command .dst0 s.geo.h (4 * s.geo.w)])
    (hv : ∀ r b, ((ruleOf i).jobOn s).value (s.sourceBytes ((ruleOf i).jobOn s) true) 0 r b =
      rgb32RowByte o (pixel r) b)
    (hcolor : ∀ r x, pixel r x = color r x) :
    RuleHolds i word req s fun t => Rgb32Pixels s t o color := by
  refine (ruleHolds_of_dst0 hd hreq hdst hv).mono fun t ⟨hin, hout⟩ => ⟨fun r hr x hx c => ?_, hout⟩
  have hb : 4 * x + ChanOrder.offset o c < 4 * s.geo.w := by
    have hlt := ChanOrder.offset_lt o c
    omega
  rw [hin r hr _ hb, rgb32RowByte_offset, hcolor]

/-- The colour of a pixel of a three-plane source, as the rules name it (R211-R213). -/
theorem State.yuv2rgb_sourceBytes (s : State) (i : Instr) {rowsY bytesY rows bytes : Nat}
    (hy : ((ruleOf i).jobOn s).srcs[0]? = some (srcPlane s.command s.geo .src0 rowsY bytesY))
    (hu : ((ruleOf i).jobOn s).srcs[1]? = some (srcPlane s.command s.geo .src1 rows bytes))
    (hv : ((ruleOf i).jobOn s).srcs[2]? = some (srcPlane s.command s.geo .src2 rows bytes)) (r x k m : Nat) :
    yuv2rgb s.plat.tables (s.sourceBytes ((ruleOf i).jobOn s) true 0 r x)
        (s.sourceBytes ((ruleOf i).jobOn s) true 1 k m) (s.sourceBytes ((ruleOf i).jobOn s) true 2 k m) =
      yuv2rgb s.plat.tables (s.srcByte .src0 rowsY r x) (s.srcByte .src1 rows k m) (s.srcByte .src2 rows k m) := by
  rw [s.sourceBytes_srcPlane i 0 hy, s.sourceBytes_srcPlane i 1 hu, s.sourceBytes_srcPlane i 2 hv]

/-! ## The obligations -/

/-- Settles O31: chroma is read at half the row and half the column. -/
theorem i420ToRgb32SharesChroma : Obligations.I420ToRgb32SharesChroma := fun s o =>
  ruleHolds_of_rgb32 (decode_dordWord rfl) rfl rfl (fun _ _ => rfl) fun r x =>
    s.yuv2rgb_sourceBytes (.i420torgb32 o) rfl rfl rfl r x (r / 2) (x / 2)

/-- Settles O32: chroma is read at the pixel's row and half the column. -/
theorem i422ToRgb32SharesChromaColumns : Obligations.I422ToRgb32SharesChromaColumns := fun s o =>
  ruleHolds_of_rgb32 (decode_dordWord rfl) rfl rfl (fun _ _ => rfl) fun r x =>
    s.yuv2rgb_sourceBytes (.i422torgb32 o) rfl rfl rfl r x r (x / 2)

/-- Settles O33: chroma is read at the pixel's own row and column. -/
theorem i444ToRgb32ConvertsEachPixel : Obligations.I444ToRgb32ConvertsEachPixel := fun s o =>
  ruleHolds_of_rgb32 (decode_dordWord rfl) rfl rfl (fun _ _ => rfl) fun r x =>
    s.yuv2rgb_sourceBytes (.i444torgb32 o) rfl rfl rfl r x r x

/-- Settles O34: only luma is read, the chroma being the rule's own 128. -/
theorem i400ToRgb32UsesNeutralChroma : Obligations.I400ToRgb32UsesNeutralChroma := fun s o =>
  ruleHolds_of_rgb32 (decode_dordWord rfl) rfl rfl (fun _ _ => rfl) fun r x =>
    congrArg (yuv2rgb s.plat.tables · 128 128) (s.sourceBytes_srcPlane (.i400torgb32 o) 0 rfl r x)

end Sys2Proof.Machine

/-! Proofs for the family spec/45_rgb_pack.md: the repacking of RGB pixels, which moves each pixel's channels and
computes nothing. -/

namespace Sys2Proof.Machine

/-! ## Command words with SORD and DORD (R93) -/

/-- A command whose free fields are SORD and DORD decodes from the word its fields make up. -/
theorem decode_sord_dord_word {op sord dord : Nat} {i : Instr} (h : i.fields = ⟨op, sord, dord, 0, 0⟩) :
    decode (BitVec.ofNat 32 (op + sord * 2 ^ 8 + dord * 2 ^ 10)) = some i := by
  have hword : encode i = BitVec.ofNat 32 (op + sord * 2 ^ 8 + dord * 2 ^ 10) := by simp [encode, h, CmdFields.toWord]
  rw [← hword, decode_encode]

theorem decode_sordWord {op : Nat} {o : ChanOrder} {i : Instr} (h : i.fields = ⟨op, o.code, 0, 0, 0⟩) :
    decode (sordWord op o) = some i := by
  have hdecode := decode_sord_dord_word h
  rwa [Nat.zero_mul, Nat.add_zero] at hdecode

/-! ## Pixels read from SRC0 and written to DST0 -/

/-- A pixel of a command's RGB32 source, as the rules name it (R123). -/
theorem State.srcPixel_sourceBytes (s : State) (i : Instr) (o : ChanOrder) {bytes : Nat}
    (hsrc : ((ruleOf i).jobOn s).srcs[0]? = some (srcPlane s.command s.geo .src0 s.geo.h bytes)) (r x : Nat) :
    srcPixel o (s.sourceBytes ((ruleOf i).jobOn s) true) r x = s.srcPixel32 o r x :=
  readPix32_congr o fun j _ => s.sourceBytes_srcPlane i 0 hsrc r (4 * x + j)

/-- A pixel of a command's 24-bit source, as the rules name it (R128, R130). -/
theorem State.readPix24_sourceBytes (s : State) (i : Instr) (l : Rgb24Layout) {bytes : Nat}
    (hsrc : ((ruleOf i).jobOn s).srcs[0]? = some (srcPlane s.command s.geo .src0 s.geo.h bytes)) (r x : Nat) :
    (readPix24 l fun j => s.sourceBytes ((ruleOf i).jobOn s) true 0 r (3 * x + j)) =
      readPix24 l fun j => s.srcByte .src0 s.geo.h r (3 * x + j) :=
  readPix24_congr l fun j _ => s.sourceBytes_srcPlane i 0 hsrc r (3 * x + j)

/-- The claim of a command that writes each RGB32 source pixel as `n` destination bytes, `pixelByte p j` being byte `j`
of the pixel `p`. -/
theorem ruleHolds_of_pixels {i : Instr} {word : Word} {req : List PlaneId} {s : State} {o : ChanOrder} {n bytes : Nat}
    {pixelByte : Pixel → Nat → Byte} (hd : decode word = some i) (hreq : (ruleOf i).req = req)
    (hsrc : ((ruleOf i).jobOn s).srcs[0]? = some (srcPlane s.command s.geo .src0 s.geo.h bytes))
    (hdst : ((ruleOf i).jobOn s).dsts = [dstPlane s.command .dst0 s.geo.h (n * s.geo.w)])
    (hv : ∀ src r b, ((ruleOf i).jobOn s).value src 0 r b = pixelByte (srcPixel o src r (b / n)) (b % n)) :
    RuleHolds i word req s fun t =>
      (∀ r < s.geo.h, ∀ x < s.geo.w, ∀ j < n,
        t.byte (s.dstAddr .dst0 r (n * x + j)) = pixelByte (s.srcPixel32 o r x) j) ∧
      ∀ a, NotStored s .dst0 s.geo.h (n * s.geo.w) a → t.byte a = s.byte a := by
  have hvalue (r b : Nat) : ((ruleOf i).jobOn s).value (s.sourceBytes ((ruleOf i).jobOn s) true) 0 r b =
      pixelByte (s.srcPixel32 o r (b / n)) (b % n) := by
    rw [hv, s.srcPixel_sourceBytes i o hsrc]
  refine (ruleHolds_of_dst0 hd hreq hdst hvalue).mono fun t ⟨hin, hout⟩ => ⟨fun r hr x hx j hj => ?_, hout⟩
  have hb : n * x + j < n * s.geo.w := calc
    n * x + j < n * (x + 1) := Nat.add_lt_add_left hj _
    _ ≤ n * s.geo.w := Nat.mul_le_mul_left n hx
  rw [hin r hr _ hb, Nat.mul_add_div (Nat.zero_lt_of_lt hj), Nat.div_eq_of_lt hj, Nat.add_zero, Nat.mul_add_mod,
    Nat.mod_eq_of_lt hj]

/-- The claim of a command that packs each RGB32 source pixel into 16 bits, low byte first (R122). -/
theorem ruleHolds_of_rgb16 {i : Instr} {word : Word} {req : List PlaneId} {s : State} {o : ChanOrder} {bytes : Nat}
    {pack : Pixel → BitVec 16} (hd : decode word = some i) (hreq : (ruleOf i).req = req)
    (hsrc : ((ruleOf i).jobOn s).srcs[0]? = some (srcPlane s.command s.geo .src0 s.geo.h bytes))
    (hdst : ((ruleOf i).jobOn s).dsts = [dstPlane s.command .dst0 s.geo.h (2 * s.geo.w)])
    (hv : ∀ src r b, ((ruleOf i).jobOn s).value src 0 r b = pixel16Byte (pack (srcPixel o src r (b / 2))) (b % 2)) :
    RuleHolds i word req s fun t => Rgb16Pixels s t fun r x => pack (s.srcPixel32 o r x) :=
  (ruleHolds_of_pixels (pixelByte := fun p => pixel16Byte (pack p)) hd hreq hsrc hdst hv).mono
    fun _ ⟨hin, hout⟩ => ⟨fun r hr x hx => ⟨hin r hr x hx 0 Nat.two_pos, hin r hr x hx 1 Nat.one_lt_two⟩, hout⟩

/-! ## The obligations -/

/-- Settles O35: the three commands differ in how they pack a pixel into 16 bits. -/
theorem rgb32NarrowsTo16Bits : Obligations.Rgb32NarrowsTo16Bits := fun _ _ =>
  ⟨ruleHolds_of_rgb16 (decode_sordWord rfl) rfl rfl rfl fun _ _ _ => rfl,
    ruleHolds_of_rgb16 (decode_sordWord rfl) rfl rfl rfl fun _ _ _ => rfl,
    ruleHolds_of_rgb16 (decode_sordWord rfl) rfl rfl rfl fun _ _ _ => rfl⟩

/-- Settles O36: the byte at each offset is the channel that the layout has there, which the statement writes out. -/
theorem rgb32ToRgb24DropsAlpha : Obligations.Rgb32ToRgb24DropsAlpha := by
  intro s o l
  refine (ruleHolds_of_pixels (pixelByte := writePix24 l) (decode_sord_dord_word rfl) rfl rfl rfl
    fun _ _ _ => rfl).mono fun t ⟨hin, hout⟩ => ⟨fun r hr x hx => ?_, hout⟩
  have h0 := hin r hr x hx 0 (by decide)
  have h1 := hin r hr x hx 1 (by decide)
  have h2 := hin r hr x hx 2 (by decide)
  cases l with
  | rgb24 | raw => exact ⟨h0, h1, h2⟩

/-- Settles O37: the source pixel is read at the layout's offsets, which the statement writes out. -/
theorem rgb24ToRgb32FillsAlpha : Obligations.Rgb24ToRgb32FillsAlpha := by
  intro s l o
  refine ruleHolds_of_rgb32 (decode_sord_dord_word rfl) rfl rfl (fun _ _ => rfl) fun r x =>
    (s.readPix24_sourceBytes (.rgb24torgb32 l o) l rfl r x).trans ?_
  cases l with
  | rgb24 | raw => rfl

/-- Settles O38: each destination pixel is the source pixel as memory held it before the command, so that running in
place makes no difference. -/
theorem rgb32ReorderPermutesChannels : Obligations.Rgb32ReorderPermutesChannels := fun s o d =>
  ruleHolds_of_rgb32 (decode_sord_dord_word rfl) rfl rfl (fun _ _ => rfl)
    (s.srcPixel_sourceBytes (.rgb32reorder o d) o rfl)

end Sys2Proof.Machine

/-! Proofs for the family spec/46_rgb_to_yuv.md: luma from each pixel, chroma from the average of a 2x2 block. -/

namespace Sys2Proof.Machine

/-! ## Luma and averaged blocks of SRC0 -/

section
variable (s : State) (i : Instr) (o : ChanOrder) {bytes : Nat}
  (hsrc : ((ruleOf i).jobOn s).srcs[0]? = some (srcPlane s.command s.geo .src0 s.geo.h bytes))
include hsrc

/-- The luma of a pixel of a command's RGB32 source, as the rules name it (R250). -/
theorem State.pixelY_sourceBytes (r x : Nat) :
    pixelY (srcPixel o (s.sourceBytes ((ruleOf i).jobOn s) true) r x) = pixelY (s.srcPixel32 o r x) :=
  congrArg pixelY (s.srcPixel_sourceBytes i o hsrc r x)

/-- The averaged pixel of a block of a command's RGB32 source, as the rules name it (R251). -/
theorem State.chromaPixel_sourceBytes (w h j k : Nat) :
    chromaPixel (srcPixel o (s.sourceBytes ((ruleOf i).jobOn s) true)) w h j k =
      chromaPixel (s.srcPixel32 o) w h j k :=
  congrArg (chromaPixel · w h j k) (funext₂ (s.srcPixel_sourceBytes i o hsrc))

end

/-! ## The obligations -/

/-- Settles O39: the one destination byte of a pixel is its luma, and alpha is not read. -/
theorem rgb32ToI400IsLuma : Obligations.Rgb32ToI400IsLuma := fun s o =>
  ruleHolds_of_dst0 (decode_sordWord rfl) rfl rfl (s.pixelY_sourceBytes (.rgb32toi400 o) o rfl)

/-- Settles O40: luma as for RGB32TOI400, and both chroma planes transform the one averaged pixel of each block, whose
channels the statement writes out. -/
theorem rgb32ToI420AveragesBlocks : Obligations.Rgb32ToI420AveragesBlocks := by
  intro s o
  have hblock := s.chromaPixel_sourceBytes (.rgb32toi420 o) o rfl s.geo.w s.geo.h
  have hu (j k : Nat) := congrArg (fun q : Pixel => rgb2u q.r q.g q.b) (hblock j k)
  have hv (j k : Nat) := congrArg (fun q : Pixel => rgb2v q.r q.g q.b) (hblock j k)
  exact ruleHolds_of_i420 (decode_sordWord rfl) rfl rfl (s.pixelY_sourceBytes (.rgb32toi420 o) o rfl) hu hv

end Sys2Proof.Machine

/-! Proofs for the family spec/60_exceptions.md: what a bus error leaves in memory, and what a command leaves of the other
instances. -/

namespace Sys2Proof.Machine
open Sys2Proof.Config

/-! ## Bus errors (R276) -/

/-- A valid command with a footprint byte that is not Mapped performs its job cut short and completes with BUS_ERROR
(R153, R276). -/
theorem exec_of_unmapped {i : Instr} {s : State} (hv : (ruleOf i).valid s.command = true)
    (hm : s.footprintMapped ((ruleOf i).jobOn s) = false) :
    exec i s = .next ((s.perform ((ruleOf i).jobOn s) true).complete codeBusError) :=
  (exec_eq_runOperation i s).trans (runOperation_unmapped hv hm)

/-- A command whose destination is specified writes no byte twice (R68). -/
theorem State.noneTwice_of_specified {s : State} {j : Job} (h : s.unspecified j = false) : noneTwice j.df = true := by
  simp only [State.unspecified, Job.memWellFormed, Bool.or_eq_false_iff, Bool.not_eq_false', Bool.and_eq_true] at h
  obtain ⟨⟨⟨honce, -⟩, -⟩, -⟩ := h
  exact honce

/-- A source byte that is Mapped and visible to the block is the byte of M0, whatever the other source bytes are. -/
theorem State.sourceBytes_of_visible {s : State} {j : Job} {k r b : Nat} {p : Plane} (hk : j.srcs[k]? = some p)
    (hm : s.mapped (p.byteAddr r b) = true) (hvis : s.hiddenFromBlock (p.byteAddr r b) = false) (intact : Bool) :
    s.sourceBytes j intact k r b = s.byte (p.byteAddr r b) := by
  cases intact with
  | true => exact State.sourceBytes_intact hk
  | false => simp [State.sourceBytes, hk, State.blockRead, hm, hvis, State.byte]

/-- A Mapped byte of DF of a specified command that is cut short ends with its old value or the rule's (R276). -/
theorem State.byte_perform_cut_specified {s : State} {j : Job} (h : s.unspecified j = false) {k r b : Nat} {p : Plane}
    (hk : j.dsts[k]? = some p) (hr : r < p.rows) (hb : b < p.bytes) (hm : s.mapped (p.byteAddr r b) = true) :
    (s.perform j true).byte (p.byteAddr r b) = s.byte (p.byteAddr r b) ∨
    (s.perform j true).byte (p.byteAddr r b) = j.value (s.sourceBytes j (s.sourceIntact j)) k r b := by
  rcases State.byte_perform_cut (State.noneTwice_of_specified h) hk hr hb hm with hold | ⟨-, hrule⟩ | ⟨hfree, -⟩
  · exact .inl hold
  · exact .inr hrule
  · exact nomatch h.symm.trans hfree

/-- Settles O9: a bus error cuts the command's job short. -/
theorem busErrorEffects : Obligations.BusErrorEffects := by
  intro i s hv hm
  refine ⟨_, exec_of_unmapped hv hm, rfl, s.complete_perform_keepsRegisters _ _ _, fun a ha => ?kept, fun hspec =>
    ⟨s.sourceBytes _ (s.sourceIntact _), fun k p r b hk hmap hvis => State.sourceBytes_of_visible hk hmap hvis _,
      fun k p r b hk hr hb hmap => State.byte_perform_cut_specified hspec hk hr hb hmap⟩⟩
  case kept =>
    rcases ha with hout | hmap
    · exact State.byte_perform_outside ((outside_iff _ a).mp hout)
    · exact State.byte_perform_unmapped hmap

/-! ## The other instances (R285, R75) -/

/-- `y` is `x`, or `x` with its command in flight marked as one whose destination bytes are unspecified (R75). -/
def CscInstance.KeptOrMarked (x y : CscInstance) : Prop :=
  y = x ∨ ∃ f, x.inFlight = some f ∧ y = { x with inFlight := some { f with tainted := true } }

theorem CscInstance.KeptOrMarked.refl (x : CscInstance) : x.KeptOrMarked x := .inl rfl

/-- A job marks an instance's command in flight where the two conflict, and changes nothing else of it (R75). -/
theorem CscInstance.taintedBy_keptOrMarked (t : Tables) (j : Job) (x : CscInstance) :
    x.KeptOrMarked (x.taintedBy t j) := by
  unfold CscInstance.taintedBy
  split
  · next f k hf hk =>
    split
    · exact .inr ⟨f, hf, rfl⟩
    · exact .refl x
  · exact .refl x

/-- Performing a job keeps or marks each other instance. -/
theorem State.perform_keptOrMarked (s : State) (j : Job) (cut : Bool) :
    List.Forall₂ CscInstance.KeptOrMarked (s.before ++ s.after)
      ((s.perform j cut).before ++ (s.perform j cut).after) := by
  rw [State.perform_before, State.perform_after, ← List.map_append, List.forall₂_map_right_iff, List.forall₂_same]
  exact fun x _ => x.taintedBy_keptOrMarked _ _

/-- Settles O11: a failed check leaves the other instances as they are, and a job, cut short or not, keeps or marks
each. -/
theorem otherInstancesKeepRegisters : Obligations.OtherInstancesKeepRegisters := by
  intro i s t h
  change List.Forall₂ CscInstance.KeptOrMarked (s.before ++ s.after) (t.before ++ t.after)
  rw [exec_eq_runOperation] at h
  rcases runOperation_cases (ruleOf i) s with ⟨-, e⟩ | ⟨-, -, e⟩ | ⟨-, -, e⟩ <;> cases e.symm.trans h
  · exact List.forall₂_same.mpr fun x _ => .refl x
  · exact s.perform_keptOrMarked ((ruleOf i).jobOn s) false
  · exact s.perform_keptOrMarked ((ruleOf i).jobOn s) true

end Sys2Proof.Machine

/-! Proofs for the family spec/70_reset_and_hazards.md: reset, abort and progress. -/

namespace Sys2Proof.Machine
open Sys2Proof.Config

/-! ## The instances after a reset (R300, R302) -/

/-- Replacing the current instance replaces it at its own number. -/
theorem State.instances_with_inst (s : State) (y : CscInstance) :
    State.instances { s with inst := y } = s.instances.set s.current y := by
  simpa using State.instances_focus_set s.current_lt y

/-- With no command in flight there is nothing a job can mark (R75). -/
theorem CscInstance.taintedBy_idle {x : CscInstance} (h : x.inFlight = none) (t : Tables) (j : Job) :
    x.taintedBy t j = x :=
  CscInstance.taintedBy_of_no_conflict fun k hk => by simp [CscInstance.job?, h] at hk

/-- A job may mark the other instances, and leaves the current one to be replaced. -/
theorem State.instances_perform_with_inst (s : State) (j : Job) (cut : Bool) (y : CscInstance) :
    State.instances { s.perform j cut with inst := y } =
      (s.instances.map (CscInstance.taintedBy s.plat.tables j)).set s.current y := by
  simp [State.instances, State.current]

/-- A soft reset puts the reset values at the current instance's number, and keeps every idle instance (R302, R285). -/
theorem State.instances_softReset (s : State) : ∃ mark : CscInstance → CscInstance,
    (∀ x, x.inFlight = none → mark x = x) ∧ s.softReset.instances = (s.instances.map mark).set s.current .reset := by
  rcases s.abort_cases with h | ⟨j, -, h⟩
  · exact ⟨id, fun _ _ => rfl, by rw [State.softReset, h, State.instances_with_inst, List.map_id]⟩
  · exact ⟨_, fun x hx => x.taintedBy_idle hx _ j, by rw [State.softReset, h, State.instances_perform_with_inst]⟩

theorem State.softReset_getElem?_current (s : State) : s.softReset.instances[s.current]? = some .reset := by
  obtain ⟨mark, -, h⟩ := s.instances_softReset
  have hlt : s.current < (s.instances.map mark).length := by
    rw [List.length_map, s.instances_length]
    exact s.current_lt
  rw [h, List.getElem?_set_self hlt]

/-- An instance that has its reset values keeps them when another is reset. -/
theorem State.softReset_getElem?_of_reset {s : State} {i : Nat} (h : s.instances[i]? = some .reset) :
    s.softReset.instances[i]? = some .reset := by
  by_cases hi : s.current = i
  · exact hi ▸ s.softReset_getElem?_current
  · obtain ⟨mark, hidle, e⟩ := s.instances_softReset
    rw [e, List.getElem?_set_ne hi, List.getElem?_map, h, Option.map_some, hidle _ rfl]

/-- One round of a power-on reset: instance `k` brought to the front and reset. -/
def State.resetAt (s : State) (k : Nat) : State := (s.focus k).softReset

theorem State.powerOn_eq (s : State) :
    s.powerOn = ((List.range s.nInstances).foldl State.resetAt s).focus 0 := rfl

theorem State.nInstances_resetAt (s : State) (k : Nat) : (s.resetAt k).nInstances = s.nInstances := by
  obtain ⟨-, -, h⟩ := (s.focus_keepsInv k).trans (s.focus k).softReset_keepsInv
  exact h

theorem State.resetAt_getElem?_same {s : State} {k : Nat} (h : k < s.nInstances) :
    (s.resetAt k).instances[k]? = some .reset := by
  have hk : k < s.instances.length := by rwa [s.instances_length]
  obtain ⟨-, hcur⟩ := State.focus_of_getElem? (List.getElem?_eq_getElem hk)
  have := (s.focus k).softReset_getElem?_current
  rwa [hcur] at this

theorem State.resetAt_getElem?_of_reset {s : State} {i : Nat} (h : s.instances[i]? = some .reset) (k : Nat) :
    (s.resetAt k).instances[i]? = some .reset :=
  State.softReset_getElem?_of_reset (by rwa [State.instances_focus])

/-- After `m` rounds the first `m` instances have their reset values. -/
theorem State.resetAt_rounds (s : State) {m : Nat} (hm : m ≤ s.nInstances) :
    ((List.range m).foldl State.resetAt s).nInstances = s.nInstances ∧
    ∀ i < m, ((List.range m).foldl State.resetAt s).instances[i]? = some .reset := by
  induction m with
  | zero => exact ⟨rfl, nofun⟩
  | succ m ih =>
    obtain ⟨hn, hi⟩ := ih (Nat.le_of_succ_le hm)
    rw [List.range_succ, List.foldl_append, List.foldl_cons, List.foldl_nil]
    refine ⟨by rw [State.nInstances_resetAt, hn], fun i him => ?_⟩
    rcases Nat.lt_succ_iff_lt_or_eq.mp him with hlt | rfl
    · exact State.resetAt_getElem?_of_reset (hi i hlt) m
    · exact State.resetAt_getElem?_same (by omega)

/-- A power-on reset gives every instance its reset values (R300). -/
theorem State.powerOn_instances {s : State} {x : CscInstance} (hx : x ∈ s.powerOn.instances) : x = .reset := by
  obtain ⟨hn, hi⟩ := s.resetAt_rounds le_rfl
  rw [State.powerOn_eq, State.instances_focus] at hx
  obtain ⟨i, hlt, rfl⟩ := List.getElem_of_mem hx
  rw [State.instances_length, hn] at hlt
  exact List.getElem_eq_iff _ |>.mpr (hi i hlt)

/-- With no command in flight a power-on reset has nothing to abort, so memory is not touched (R300). -/
theorem State.powerOn_mem_of_idle {s : State} (h : ∀ x ∈ s.instances, x.inFlight = none) : s.powerOn.mem = s.mem := by
  refine (State.powerOn_induct (P := fun t => t.mem = s.mem ∧ ∀ x ∈ t.instances, x.inFlight = none) s ⟨rfl, h⟩
    ?focus ?reset).1
  case focus => exact fun t k ⟨hm, hi⟩ => ⟨by rwa [State.focus_mem], by rwa [State.instances_focus]⟩
  case reset =>
    rintro t ⟨hm, hi⟩
    rw [State.softReset, State.abort_idle (hi _ t.inst_mem), State.instances_with_inst]
    refine ⟨hm, fun x hx => ?_⟩
    rcases List.mem_or_eq_of_mem_set hx with hx | rfl
    · exact hi x hx
    · rfl

/-! ## An aborted command (R302) -/

@[simp] theorem State.byte_focus (s : State) (k : Nat) (a : Word) : (s.focus k).byte a = s.byte a := by
  rw [State.byte, State.focus_mem, State.byte]

@[simp] theorem State.mapped_focus (s : State) (k : Nat) : (s.focus k).mapped = s.mapped :=
  State.mapped_congr (s.focus_plat k) (s.nInstances_focus k)

@[simp] theorem State.hiddenFromBlock_focus (s : State) (k : Nat) (a : Word) :
    (s.focus k).hiddenFromBlock a = s.hiddenFromBlock a := by
  obtain ⟨-, hplat, -, -, hstale, -, -⟩ := s.focus_rest k
  rw [State.hiddenFromBlock, hplat, hstale, State.hiddenFromBlock]

/-- A command in flight without a footprint, illegal or invalid, leaves nothing to abort (R275). -/
theorem State.abort_of_no_job {s : State} (h : ∀ f, s.inst.inFlight = some f → jobOf s.plat.tables f.regs = none) :
    s.abort = s := by
  rcases s.abort_cases with e | ⟨j, hj, -⟩
  · exact e
  · obtain ⟨f, hf, hjob⟩ := Option.bind_eq_some_iff.mp hj
    exact nomatch (h f hf).symm.trans hjob

theorem State.abort_of_job {s : State} {j : Job} (h : s.inst.job? s.plat.tables = some j) :
    s.abort = s.perform j true := by
  rw [State.abort, h]

/-- A CTRL write with SOFT_RESET = 1 is the soft reset of the window's instance, whatever its other bits (R23, R302). -/
theorem State.busWrite_softReset {s : State} {a v : Word} {n : Nat} (hw : s.windowOf a = some n)
    (hoff : (a - s.windowBase n).toNat = 0x04) (hv : v.getLsbD 2 = true) :
    s.busWrite a .word v = .next (s.resetAt n) := by
  rw [State.busWrite_aligned hw (by rw [hoff]), hoff]
  exact congrArg _ (if_pos hv)

@[simp] theorem State.abort_agenda (s : State) : s.abort.agenda = s.agenda := by
  rcases s.abort_cases with h | ⟨j, -, h⟩ <;> simp [h]

/-! ## Commands in flight, counted -/

@[simp] theorem CscInstance.taintedBy_busy (t : Tables) (j : Job) (x : CscInstance) :
    (x.taintedBy t j).busy = x.busy := by
  rcases x.taintedBy_keptOrMarked t j with h | ⟨f, hf, h⟩ <;> rw [h]
  exact (CscInstance.busy_of_inFlight hf).symm

theorem State.busyCount_eq (s : State) :
    s.busyCount = s.before.countP CscInstance.busy + s.inst.busy.toNat + s.after.countP CscInstance.busy := by
  rw [State.busyCount, ← List.countP_eq_length_filter, State.instances, List.countP_append, List.countP_cons]
  cases s.inst.busy
  · rfl
  · exact Nat.add_right_comm _ _ 1

theorem State.busyCount_eq_zero_iff (s : State) : s.busyCount = 0 ↔ ∀ x ∈ s.instances, x.busy = false := by
  simp [State.busyCount]

theorem State.busyCount_focus (s : State) (k : Nat) : (s.focus k).busyCount = s.busyCount := by
  rw [State.busyCount, State.instances_focus, State.busyCount]

theorem State.busyCount_complete {s : State} (h : s.inst.busy = true) (c : Word) :
    (s.complete c).busyCount + 1 = s.busyCount := by
  simp [State.busyCount_eq, h]
  omega

theorem State.busyCount_perform (s : State) (j : Job) (cut : Bool) : (s.perform j cut).busyCount = s.busyCount := by
  simp [State.busyCount_eq, List.countP_map, Function.comp_def]

/-- Running a command in flight answers a state with one command fewer in flight, and every instance (R154, R287). -/
theorem State.runCurrent_finishes_one {s : State} (h : s.inst.busy = true) :
    ∃ t, s.runCurrent = .next t ∧ t.agenda = s.agenda ∧ t.nInstances = s.nInstances ∧ t.busyCount + 1 = s.busyCount := by
  rcases s.runCurrent_cases with ⟨c, -, e⟩ | ⟨i, c, cut, -, -, -, e⟩ <;>
    obtain ⟨-, -, hn⟩ := State.runCurrent_keepsInv e
  · exact ⟨_, e, rfl, hn, State.busyCount_complete h c⟩
  · exact ⟨_, e, rfl, hn, (State.busyCount_complete (s := s.perform _ cut) h c).trans (s.busyCount_perform _ cut)⟩

/-- With an empty agenda and no command in flight, a step changes nothing (R287). -/
theorem step_of_idle {s : State} (ha : s.agenda = []) (h : s.busyCount = 0) : step s = .next s := by
  have hidle := s.busyCount_eq_zero_iff.mp h
  rw [step_of_empty ha]
  rcases s.runAny_cases with ⟨hb, -⟩ | ⟨k, -, hk, -⟩ | ⟨-, -, e⟩
  · exact nomatch (hidle _ s.inst_mem).symm.trans hb
  · obtain ⟨-, hb⟩ := State.firstBusy_some hk
    have hmem : (s.focus k).inst ∈ s.instances := s.instances_focus k ▸ (s.focus k).inst_mem
    exact nomatch (hidle _ hmem).symm.trans hb
  · exact e

/-- With an empty agenda and a command in flight, a step finishes one (R320). -/
theorem step_finishes_one {s : State} {m : Nat} (ha : s.agenda = []) (h : s.busyCount = m + 1) :
    ∃ t, step s = .next t ∧ t.agenda = [] ∧ t.nInstances = s.nInstances ∧ t.busyCount = m := by
  rw [step_of_empty ha]
  rcases s.runAny_cases with ⟨hb, e⟩ | ⟨k, -, hk, e⟩ | ⟨-, hnone, -⟩
  · obtain ⟨t, ht, hag, hn, hc⟩ := State.runCurrent_finishes_one hb
    exact ⟨t, e.trans ht, hag.trans ha, hn, by omega⟩
  · obtain ⟨-, hb⟩ := State.firstBusy_some hk
    obtain ⟨t, ht, hag, hn, hc⟩ := State.runCurrent_finishes_one hb
    rw [State.busyCount_focus] at hc
    exact ⟨t, e.trans ht, (hag.trans (s.focus_agenda k)).trans ha, hn.trans (s.nInstances_focus k), by omega⟩
  · have hzero := s.busyCount_eq_zero_iff.mpr (State.firstBusy_none hnone)
    omega

/-- A run's first step, when it answers a next state. -/
theorem run_succ_of_step {M : Host.Core} {s t : M.State} (h : M.step s = .next t) (m : Nat) :
    M.run (m + 1) s = M.run m t := by
  rw [Host.Core.run, h]

/-- As many steps as there are commands in flight finish them all. -/
theorem run_finishes_all {s : State} {m : Nat} (ha : s.agenda = []) (h : s.busyCount = m) :
    ∃ t, Host.Core.run Sys2Proof.core m s = .next t ∧ t.busyCount = 0 ∧ t.nInstances = s.nInstances := by
  induction m generalizing s with
  | zero => exact ⟨s, rfl, h, rfl⟩
  | succ m ih =>
    obtain ⟨t, ht, hag, hn, hc⟩ := step_finishes_one ha h
    obtain ⟨u, hu, hzero, hnu⟩ := ih hag hc
    exact ⟨u, (run_succ_of_step (M := Sys2Proof.core) ht m).trans hu, hzero, hnu.trans hn⟩

/-! ## The obligations -/

/-- Settles O60: memory is empty, and the one instance has its reset values. -/
theorem resetMeetsTheInvariant : Obligations.ResetMeetsTheInvariant :=
  ⟨Memory.reset_wf, List.forall_mem_singleton.mpr CscInstance.reset_legal⟩

/-- Settles O58: each step finishes one command in flight. -/
theorem runningCommandsFinish : Obligations.RunningCommandsFinish := fun _ ha =>
  ⟨step_of_idle ha, run_finishes_all ha rfl⟩

/-- Settles O57: every instance is `CscInstance.reset`, both in `State.reset` and after a power-on reset. -/
theorem powerOnResetValues : Obligations.PowerOnResetValues := by
  unfold Obligations.PowerOnResetValues
  intro zero
  have hzero : zero .reset := ⟨rfl, rfl, rfl, rfl, rfl, rfl, rfl⟩
  refine ⟨List.forall_mem_singleton.mpr hzero, rfl, fun s rest ha => ?_⟩
  let u : State := { s with agenda := rest }
  obtain ⟨-, hplat, hn⟩ := u.powerOn_keepsInv
  exact ⟨_, step_of_entry ha, fun x hx => State.powerOn_instances hx ▸ hzero, hn, hplat,
    State.powerOn_mem_of_idle (s := u), fun b => State.byte_powerOn (s := u)⟩

/-- Settles O51: the write is the soft reset of the window's instance, which cuts the job in flight short. -/
theorem softResetAborts : Obligations.SoftResetAborts := by
  intro s a v n x hw hx hoff hv
  obtain ⟨hlt, -⟩ := State.windowOf_some hw
  obtain ⟨rfl, -⟩ := State.focus_of_getElem? hx
  obtain ⟨-, hplat, hn⟩ := (s.focus_keepsInv n).trans (s.focus n).softReset_keepsInv
  refine ⟨s.resetAt n, State.busWrite_softReset hw hoff hv, State.resetAt_getElem?_same hlt, hplat,
    (s.focus n).abort_agenda.trans (s.focus_agenda n), hn, fun hnone => ?nojob, fun f j hf hj => ?abort⟩
  case nojob =>
    rw [← s.focus_plat n] at hnone
    rw [State.resetAt, State.softReset, State.abort_of_no_job hnone]
    exact ⟨sameBesideInstances_focus s n _, State.instances_focus_set hlt _⟩
  case abort =>
    have hjob : (s.focus n).inst.job? (s.focus n).plat.tables = some j := by
      rw [CscInstance.job?_of_inFlight hf, s.focus_plat n, hj]
    have hbyte (b : Word) : (s.resetAt n).byte b = ((s.focus n).perform j true).byte b := by
      rw [← State.abort_of_job hjob]
      rfl
    refine ⟨fun b hb => ?kept, fun hspec => ⟨(s.focus n).sourceBytes j ((s.focus n).sourceIntact j),
      fun k p r b hk hm hvis => ?source, fun k p r b hk hr hb hm => ?cut⟩⟩
    case kept =>
      rw [hbyte, ← s.byte_focus n]
      rcases hb with hout | hm
      · exact State.byte_perform_outside ((outside_iff _ b).mp hout)
      · exact State.byte_perform_unmapped (by rwa [s.mapped_focus])
    case source =>
      rw [State.sourceBytes_of_visible hk (by rwa [s.mapped_focus]) (by rwa [s.hiddenFromBlock_focus]), s.byte_focus]
    case cut =>
      rw [hbyte, ← s.byte_focus n]
      exact State.byte_perform_cut_specified hspec hk hr hb (by rwa [s.mapped_focus])

end Sys2Proof.Machine
